-- ==== Sys2Proof/Word.lean ====
section
/-! DEFINITION. The word types of ADTS-HDR: bytes of the byte source, register words, stream positions. -/

namespace Sys2Proof

/-- One byte of the byte source (20_memory.md R60). -/
abbrev Byte := BitVec 8

/-- One word of the register window, `REG_W = 32` (00_scope.md R7, 10_state.md R21). -/
abbrev Word := BitVec 32

/-- A stream position, `POS_W = 64`, unsigned (00_scope.md R7, 10_state.md R30). -/
abbrev Pos := BitVec 64

end Sys2Proof
end

