-- ==== Sys2Proof/Syntax.lean ====
section
/-! DEFINITION. The commands of ADTS-HDR: one constructor per row of spec/opcode_table.json (30_encoding.md R92). A command
word has no operand field; the operand of SEEK_ABS and SEEK_REL is the ARG register (R93). -/

namespace Sys2Proof

/-- The six legal commands (30_encoding.md R92). -/
inductive Instr where
  /-- NOP, OP 0x0 (42_position_and_control.md R200). -/
  | nop
  /-- SEEK_ABS, OP 0x1 (42_position_and_control.md R202). -/
  | seekAbs
  /-- SEEK_REL, OP 0x2 (42_position_and_control.md R206). -/
  | seekRel
  /-- LOCATE, OP 0x3 (40_locate.md R133). -/
  | locate
  /-- PEEK, OP 0x4 (41_peek.md R171). -/
  | peek
  /-- ADVANCE, OP 0x5 (42_position_and_control.md R210). -/
  | advance
  deriving DecidableEq, Repr

end Sys2Proof
end

