-- ==== Sys2Proof/WellFormed.lean ====
section
/-! DEFINITION. Which command words are well formed (30_encoding.md R91, R94). `Instr` itself has no operand, so every
`Instr` is well formed; the checks are on the two fields of the word, and a word that fails one is illegal by name. -/

namespace Sys2Proof

/-- The two fields of format CMD32 (30_encoding.md R91). -/
structure Cmd32 where
  /-- Bits 31:4, reserved, must be 0. -/
  rsv : BitVec 28
  /-- Bits 3:0, the opcode. -/
  op  : BitVec 4
  deriving DecidableEq, Repr

/-- Why a command word is illegal (30_encoding.md R94). -/
inductive IllegalWord where
  /-- RSV is nonzero, whatever OP is. -/
  | reservedBits
  /-- RSV is 0 and OP is in 0x6 .. 0xF. -/
  | reservedOp
  deriving DecidableEq, Repr

/-- A word is legal when RSV = 0 and OP is in 0x0 .. 0x5 (30_encoding.md R92, R94). -/
def Cmd32.wellFormed (c : Cmd32) : Bool :=
  c.rsv == 0#28 && decide (c.op.toNat < 6)

/-- Every command is well formed: a command has no operand field (30_encoding.md R90). -/
def Instr.wellFormed (i : Instr) : Bool :=
  match i with
  | .nop => true
  | .seekAbs => true
  | .seekRel => true
  | .locate => true
  | .peek => true
  | .advance => true

end Sys2Proof
end

