-- ==== Sys2Proof/Decode.lean ====
section
/-! DEFINITION. Decoding and encoding the command word (30_encoding.md section 1). The decode is total (R95): every 32-bit
word is one of the six commands or illegal, and an illegal word is named. -/

namespace Sys2Proof

/-- The word split into its two fields (30_encoding.md R91). -/
def Cmd32.ofWord (c : Word) : Cmd32 :=
  { rsv := c.extractLsb' 4 28, op := c.extractLsb' 0 4 }

/-- The word of two fields, RSV in bits 31:4 and OP in bits 3:0 (30_encoding.md R91). -/
def Cmd32.toWord (f : Cmd32) : Word :=
  f.rsv ++ f.op

/-- The opcode map (30_encoding.md R92); OP 0x6 to 0xF are reserved. -/
def decodeOp (op : BitVec 4) : Option Instr :=
  match op.toNat with
  | 0 => some .nop
  | 1 => some .seekAbs
  | 2 => some .seekRel
  | 3 => some .locate
  | 4 => some .peek
  | 5 => some .advance
  | _ => none

/-- The decode of a command word (30_encoding.md R94, R95). -/
def decode (c : Word) : Except IllegalWord Instr :=
  if (Cmd32.ofWord c).rsv = 0#28 then
    match decodeOp (Cmd32.ofWord c).op with
    | some i => .ok i
    | none => .error .reservedOp
  else
    .error .reservedBits

/-- The opcode of a command (30_encoding.md R92). -/
def opcode (i : Instr) : BitVec 4 :=
  match i with
  | .nop => 0x0#4
  | .seekAbs => 0x1#4
  | .seekRel => 0x2#4
  | .locate => 0x3#4
  | .peek => 0x4#4
  | .advance => 0x5#4

/-- The command word of a command: RSV = 0 and its opcode (30_encoding.md R91, R92). -/
def encode (i : Instr) : Word :=
  Cmd32.toWord { rsv := 0#28, op := opcode i }

/-- The command an instruction of the opcode table decodes to: a command is ONE 32-bit register write (30_encoding.md R90),
bit 0 its least significant bit. `none` where the decoder calls the word illegal, or where a bit above the 32 is set. -/
def decodeTableWord (nbits w : Nat) : Option Instr :=
  let v := w % 2 ^ nbits
  if v < 2 ^ 32 then (decode (BitVec.ofNat 32 v)).toOption else none

end Sys2Proof
end

