-- ==== Sys2Proof/Machine/Bus.lean ====
section
/-! DEFINITION. The register window (10_state.md R21): the thirteen registers, their offsets, and a host's bus access. -/

namespace Sys2Proof.Machine

/-- The registers of the window (10_state.md R21). -/
inductive RegName where
  | id | ctrl | cmd | status | int | argLo | argHi | posLo | posHi | hdrPosLo | hdrPosHi | hdrF0 | hdrF1
  deriving DecidableEq, Repr

/-- One access of a host to the register window: its width in bits, its byte offset in the 256-byte window, and for a write
the word written (10_state.md R21, R22). -/
inductive Access where
  | read  (width : Nat) (offset : BitVec 8)
  | write (width : Nat) (offset : BitVec 8) (value : Word)
  deriving DecidableEq, Repr

/-- The byte offset of a register (10_state.md R21). -/
def RegName.offset (r : RegName) : BitVec 8 :=
  match r with
  | .id => 0x00#8
  | .ctrl => 0x04#8
  | .cmd => 0x08#8
  | .status => 0x0C#8
  | .int => 0x10#8
  | .argLo => 0x14#8
  | .argHi => 0x18#8
  | .posLo => 0x1C#8
  | .posHi => 0x20#8
  | .hdrPosLo => 0x24#8
  | .hdrPosHi => 0x28#8
  | .hdrF0 => 0x2C#8
  | .hdrF1 => 0x30#8

/-- The register at an aligned offset; `none` at the reserved offsets 0x34 to 0xFC (10_state.md R21, R23). -/
def RegName.ofOffset (off : BitVec 8) : Option RegName :=
  match off.toNat with
  | 0x00 => some .id
  | 0x04 => some .ctrl
  | 0x08 => some .cmd
  | 0x0C => some .status
  | 0x10 => some .int
  | 0x14 => some .argLo
  | 0x18 => some .argHi
  | 0x1C => some .posLo
  | 0x20 => some .posHi
  | 0x24 => some .hdrPosLo
  | 0x28 => some .hdrPosHi
  | 0x2C => some .hdrF0
  | 0x30 => some .hdrF1
  | _ => none

/-- The interface takes only 32-bit accesses at offsets that are multiples of 4 (10_state.md R22). -/
def accessOk (width : Nat) (off : BitVec 8) : Bool :=
  width == 32 && off.toNat % 4 == 0

end Sys2Proof.Machine
end

