-- ==== Sys2Proof/Machine/Asm.lean ====
section
/-! DEFINITION. The host assembly (30_encoding.md R110, R111) as data: its lines, its pseudo-instructions and their
expansions, the walk program and the boot order, and the host agent that runs a program. A label is a number (log 11). -/

namespace Sys2Proof.Machine

/-- The field names a host branch may test: those of 10_state.md R27, R33 and R34 (30_encoding.md R110). -/
inductive FieldName where
  | busy | done | resValid | err
  | syncword | mpegVersion | protAbsent | aot | sfi | chcfg
  | frameLength
  deriving DecidableEq, Repr

/-- One line of the host assembly (30_encoding.md R110). -/
inductive AsmLine where
  /-- `wr <REG>, <imm32>`: 32-bit write. -/
  | wr (reg : RegName) (imm : Word)
  /-- `rd <REG>`: 32-bit read; the value is named `<REG>` in the following lines. -/
  | rd (reg : RegName)
  /-- `wait`: repeat `rd STATUS` until `STATUS.BUSY = 0`. -/
  | wait
  /-- `b.err <label>`: branch if `STATUS.ERR != 0`. -/
  | bErr (target : Nat)
  /-- `b.eq <FIELD>, <imm>, <label>`: branch if the last read value of the field equals `imm`. -/
  | bEq (field : FieldName) (imm : Word) (target : Nat)
  /-- `b <label>`: unconditional branch. -/
  | b (target : Nat)
  /-- `halt`: end of the host program. -/
  | halt
  /-- `<label>:`. -/
  | label (name : Nat)
  deriving DecidableEq, Repr

/-- The pseudo-instructions (30_encoding.md R111). -/
inductive Pseudo where
  | nop
  | seekAbs (v : BitVec 64)
  | seekRel (v : Int)
  | locate
  | peek
  | advance
  | ack
  | result
  deriving DecidableEq, Repr

/-- The host as an agent (10_state.md R20): its program, the line it is at, and the last value it read of each register, the
newest first (30_encoding.md R110: "the value is named `<REG>` in the following lines"). -/
structure HostAgent where
  prog : List AsmLine
  line : Nat
  seen : List (RegName × Word)
  deriving DecidableEq, Repr

/-- Writing the CMD word of a command, then waiting (30_encoding.md R111). -/
def issue (i : Instr) : List AsmLine :=
  [.wr .cmd (encode i), .wait]

/-- The expansion of a pseudo-instruction (30_encoding.md R111). -/
def Pseudo.expand (p : Pseudo) : List AsmLine :=
  match p with
  | .nop => issue .nop
  | .seekAbs v => [.wr .argLo (v.extractLsb' 0 32), .wr .argHi (v.extractLsb' 32 32)] ++ issue .seekAbs
  | .seekRel v =>
      [.wr .argLo ((BitVec.ofInt 64 v).extractLsb' 0 32), .wr .argHi ((BitVec.ofInt 64 v).extractLsb' 32 32)] ++
        issue .seekRel
  | .locate => issue .locate
  | .peek => issue .peek
  | .advance => issue .advance
  | .ack => [.wr .int 0x1#32]
  | .result => [.rd .hdrPosLo, .rd .hdrPosHi, .rd .hdrF0, .rd .hdrF1]

/-- The walk program (42_position_and_control.md R222), with label 0 for `loop` and label 1 for `stop`. -/
def walkProgram (start : BitVec 64) : List AsmLine :=
  Pseudo.expand (.seekAbs start) ++ Pseudo.expand .locate ++ [.bErr 1] ++
  [.label 0] ++ Pseudo.expand .peek ++ [.bErr 1] ++ Pseudo.expand .result ++
  Pseudo.expand .advance ++ [.bErr 1] ++ [.b 0] ++
  [.label 1, .rd .status, .halt]

/-- The boot order of a host (70_reset_and_hazards.md R274): optionally enable `irq`, then the walk. -/
def bootProgram (enableIrq : Bool) (start : BitVec 64) : List AsmLine :=
  (if enableIrq then [.wr .ctrl 0x1#32] else []) ++ walkProgram start

/-- The line a label stands on: the first one of that name. -/
def findLabel (name : Nat) : List AsmLine → Option Nat
  | [] => none
  | l :: ls => if l = .label name then some 0 else (findLabel name ls).map (· + 1)

/-- The label a line branches to, where it is a branch. -/
def AsmLine.target? (l : AsmLine) : Option Nat :=
  match l with
  | .bErr t => some t
  | .bEq _ _ t => some t
  | .b t => some t
  | .wr _ _ => none
  | .rd _ => none
  | .wait => none
  | .halt => none
  | .label _ => none

/-- A host program is well formed when every branch names a label that it holds. -/
def progWellFormed (p : List AsmLine) : Bool :=
  p.all (fun l => match l.target? with
    | none => true
    | some t => (findLabel t p).isSome)

/-- The register a field is part of (10_state.md R27, R33, R34). -/
def FieldName.reg (f : FieldName) : RegName :=
  match f with
  | .busy | .done | .resValid | .err => .status
  | .syncword | .mpegVersion | .protAbsent | .aot | .sfi | .chcfg => .hdrF0
  | .frameLength => .hdrF1

/-- A field of a register word, zero-extended (10_state.md R27, R33, R34). -/
def FieldName.extract (f : FieldName) (w : Word) : Word :=
  match f with
  | .busy => (w.extractLsb' 0 1).setWidth 32
  | .done => (w.extractLsb' 1 1).setWidth 32
  | .resValid => (w.extractLsb' 2 1).setWidth 32
  | .err => (w.extractLsb' 4 4).setWidth 32
  | .syncword => (w.extractLsb' 0 12).setWidth 32
  | .mpegVersion => (w.extractLsb' 12 1).setWidth 32
  | .protAbsent => (w.extractLsb' 13 1).setWidth 32
  | .aot => (w.extractLsb' 16 6).setWidth 32
  | .sfi => (w.extractLsb' 24 4).setWidth 32
  | .chcfg => (w.extractLsb' 28 3).setWidth 32
  | .frameLength => (w.extractLsb' 0 13).setWidth 32

/-- The last value read of a register, where it was read. -/
def lastRead (r : RegName) : List (RegName × Word) → Option Word
  | [] => none
  | (q, v) :: rest => if q = r then some v else lastRead r rest

/-- Recording a read: the newest first, one entry a register. -/
def recordRead (r : RegName) (v : Word) (seen : List (RegName × Word)) : List (RegName × Word) :=
  (r, v) :: seen.filter (fun e => decide (e.1 ≠ r))

end Sys2Proof.Machine
end

