-- ==== Sys2Proof/Config.lean ====
section
/-! DEFINITION. The fixed parameters of 00_scope.md R6 and R7, and the free values of the model: opaque constants with no
body, so that no proof can know a value of one. -/

namespace Sys2Proof

/-- `W`: the scan window in bytes (R6). -/
@[reducible, simp] def Config.windowLen : Nat := 9

/-- `OVERLAP`: bytes shared by consecutive windows (R6). -/
@[reducible, simp] def Config.overlap : Nat := 4

/-- `STRIDE = W - 4`: bytes the scan advances after a window with no match (R6). -/
@[reducible, simp] def Config.stride : Nat := 5

/-- `ADTS_HDR_MIN_LEN`: bytes PEEK reads (R6). -/
@[reducible, simp] def Config.hdrLen : Nat := 7

/-- `SYNCWORD`: the 12-bit sync constant (R6). -/
@[reducible, simp] def Config.syncword : BitVec 12 := 0xFFF#12

/-- `MIN_LEN_NOCRC`: minimum frame length when `protection_absent = 1` (R6). -/
@[reducible, simp] def Config.minLenNoCrc : Nat := 7

/-- `MIN_LEN_CRC`: minimum frame length when `protection_absent = 0` (R6). -/
@[reducible, simp] def Config.minLenCrc : Nat := 9

/-- `ID_VALUE`: the ID register, the ASCII bytes "ADTS" (R7, 10_state.md R24). -/
@[reducible, simp] def Config.idValue : Word := 0x41445453#32

/-- One more than the largest position, `2^POS_W` (R7, R9); also the largest length of a byte source. -/
@[reducible, simp] def Config.posLimit : Nat := 18446744073709551616

/-- FREE VALUE (log 6; 93_implementation_defined.md U7): what the window buffer `WBUF` holds after a LOCATE, of which
10_state.md R39 says that no value survives the command. Its argument is the number of source reads made so far. -/
opaque Config.wbufAfter : Nat → Vector Byte 9

/-- FREE VALUE (log 6; U7): what the window start `ws` holds after a LOCATE (10_state.md R39). -/
opaque Config.wsAfter : Nat → Pos

/-- FREE VALUE (log 6; U7): what the header buffer `HBUF` holds after a PEEK (10_state.md R40). -/
opaque Config.hbufAfter : Nat → Vector Byte 7

/-- FREE VALUE (log 3; 93_implementation_defined.md U1): `SRC_ERR`, whether the read of a number ends in an I/O error, where the
source leaves that draw free (20_memory.md R69: "a free draw at each read"). -/
opaque Config.srcErr : Nat → Bool

/-- FREE VALUE (log 5; 93_implementation_defined.md U4): whether the read of a number is never answered, where the source leaves
that free (70_reset_and_hazards.md R282). -/
opaque Config.srcSilent : Nat → Bool

end Sys2Proof
end

