-- ==== Sys2Proof/Machine/Source.lean ====
section
/-! DEFINITION. The byte source (20_memory.md R60 to R63): its contents as a list of cells in one canonical form, its length,
and the two oracles of its answers, all plain data that a run keeps constant (R61). -/

namespace Sys2Proof.Machine

/-- What the reads beyond the listed draws draw. -/
inductive LaterDraws where
  /-- None of them. -/
  | never
  /-- Every one: a device that fails, or falls silent, for good. -/
  | always
  /-- Each its own free draw (20_memory.md R69). -/
  | free
  deriving DecidableEq, Repr

/-- One oracle of the byte source, a draw at each read (20_memory.md R69): the draws of the first reads, read number 0 first,
and those of all later ones (log 3). -/
structure Draws where
  listed : List Bool
  later  : LaterDraws
  deriving DecidableEq, Repr

/-- The draw of read number `k`; `free` is the free draw of each read. -/
def Draws.draw (d : Draws) (free : Nat → Bool) (k : Nat) : Bool :=
  match d.listed[k]? with
  | some b => b
  | none =>
    match d.later with
    | .never => false
    | .always => true
    | .free => free k

/-- The byte source, the argument `(L, S, SRC_ERR)` of the model (00_scope.md R7; log 3). -/
structure Source where
  /-- `L`, `0 <= L <= 2^64`. -/
  len : Fin 18446744073709551617
  /-- `S`: address and byte, addresses strictly rising and below `L`, no entry equal to `cellDefault` (log 4). -/
  cells : List Host.Cell
  /-- `SRC_ERR`: which reads the device answers with an I/O error (R62, R69; log 3). -/
  errDraws : Draws
  /-- Which reads the device never answers (70_reset_and_hazards.md R282; log 5). -/
  silentDraws : Draws
  deriving DecidableEq, Repr

/-- The device answers read number `k` with an I/O error (20_memory.md R62). -/
def Source.errRead (src : Source) (k : Nat) : Bool :=
  src.errDraws.draw Config.srcErr k

/-- The device never answers read number `k` (70_reset_and_hazards.md R282). -/
def Source.silentRead (src : Source) (k : Nat) : Bool :=
  src.silentDraws.draw Config.srcSilent k

/-- What an unlisted address of the source below `L` reads as (DESIGN CHOICE, log 4: a coding of `S`, which the spec leaves
to the platform; every `S` has exactly one list). -/
def cellDefault : Byte := 0x00#8

/-- The byte at an address of a list of cells. -/
def cellRead (a : Nat) : List Host.Cell → Byte
  | [] => cellDefault
  | (k, v) :: rest => if k = a then v else cellRead a rest

/-- One byte written to a list of cells in canonical form, which it keeps. Only the platform places bytes (R273); the
engine never writes the source (R68). -/
def cellWrite (a : Nat) (b : Byte) : List Host.Cell → List Host.Cell
  | [] => if b = cellDefault then [] else [(a, b)]
  | (k, v) :: rest =>
      if a < k then (if b = cellDefault then (k, v) :: rest else (a, b) :: (k, v) :: rest)
      else if a = k then (if b = cellDefault then rest else (a, b) :: rest)
      else (k, v) :: cellWrite a b rest

/-- The canonical form from an address on: addresses strictly rising from at least `lo` and below `len`, no default byte. -/
def cellsWfFrom (lo len : Nat) : List Host.Cell → Bool
  | [] => true
  | (k, v) :: rest => decide (lo ≤ k) && decide (k < len) && decide (v ≠ cellDefault) && cellsWfFrom (k + 1) len rest

/-- The canonical form of a source's contents. -/
def Source.wf (src : Source) : Bool :=
  cellsWfFrom 0 src.len.val src.cells

/-- `S[a]` for `a < L`; at or beyond `L` there is no byte, and `cellDefault` stands for it in no rule, since a read that
touches such an address is `Short` (20_memory.md R62, R71). -/
def Source.byteAt (src : Source) (a : Nat) : Byte :=
  cellRead a src.cells

/-- The cells the platform attaches, brought into canonical form; a cell at or beyond `L` is no part of the source. -/
def placeCells (len : Nat) (cells : List Host.Cell) : List Host.Cell :=
  cells.foldl (fun m c => if c.1 < len then cellWrite c.1 c.2 m else m) []

/-- The source of no bytes, whose device answers every read, with a free error draw at each: what State.reset holds
(DESIGN CHOICE, log 3). -/
def Source.empty : Source :=
  { len := ⟨0, by decide⟩, cells := [],
    errDraws := { listed := [], later := .free }, silentDraws := { listed := [], later := .never } }

end Sys2Proof.Machine
end

