-- ==== Sys2Proof/Machine/State.lean ====
section
/-! DEFINITION. The state of ADTS-HDR (10_state.md) and of the agents around it, as plain data; the stops; the state right
after reset (R43). -/

namespace Sys2Proof.Machine

/-- The DecodedHeader: the fields of the result registers HDR_F0 and HDR_F1 (10_state.md R33, R34). Their reserved bits are
no storage: they read 0 (R23). -/
structure Header where
  syncword    : BitVec 12
  mpegVersion : BitVec 1
  protAbsent  : BitVec 1
  aot         : BitVec 6
  sfi         : BitVec 4
  chcfg       : BitVec 3
  frameLength : BitVec 13
  deriving DecidableEq, Repr

/-- The cleared result registers (10_state.md R36, 41_peek.md R170). -/
def Header.zero : Header :=
  { syncword := 0#12, mpegVersion := 0#1, protAbsent := 0#1, aot := 0#6, sfi := 0#4, chcfg := 0#3, frameLength := 0#13 }

/-- The engine state (10_state.md R38): idle, or running the CMD word taken with the copy of ARG at acceptance. -/
inductive Engine where
  | idle
  | run (opWord : Word) (arg : BitVec 64)
  deriving DecidableEq, Repr

/-- The status codes (60_exceptions.md R230). -/
inductive StatusCode where
  | ok | ioFailure | syncNotFound | invalidSyncword | invalidAudioObjectType | invalidFrameLength | noHeader | illegalCommand
  deriving DecidableEq, Repr

/-- What the outside world does next (log 2): the schedule of the agents' turns. -/
inductive Turn where
  /-- The engine goes on: the completion of a running command (10_state.md R42). -/
  | engine
  /-- The host agent runs one line of its program (30_encoding.md R110). -/
  | host
  /-- A host makes one raw access to the register window (10_state.md R21, R22). -/
  | bus (a : Access)
  /-- `rst` is asserted (70_reset_and_hazards.md R270, R271). -/
  | rst
  /-- The platform attaches a byte source (70_reset_and_hazards.md R273; log 13). -/
  | attach (len : Nat) (cells : List Host.Cell) (errDraws silentDraws : Draws)
  deriving DecidableEq, Repr

/-- The machine. The first group is what the spec's registers hold, the second the engine's hidden state, the third the byte
source and the model's own records of the agents around the engine. -/
structure State where
  /-- CTRL.IE (10_state.md R25). -/
  ie : Bool
  /-- STATUS.DONE (R27). -/
  done : Bool
  /-- STATUS.RES_VALID (R27). -/
  resValid : Bool
  /-- STATUS.ERR (R27). -/
  err : BitVec 4
  /-- INT.DONE_PEND (R28). -/
  donePend : Bool
  /-- ARG_LO (R29). -/
  argLo : Word
  /-- ARG_HI (R29). -/
  argHi : Word
  /-- POS (R30). -/
  pos : Pos
  /-- HDR_POS (R32). -/
  hdrPos : Pos
  /-- HDR_F0 and HDR_F1 (R33, R34). -/
  hdr : Header
  /-- The engine state (R38); STATUS.BUSY is computed from it (log 1). -/
  engine : Engine
  /-- WBUF[0..8] (R39). -/
  wbuf : Vector Byte 9
  /-- The window start `ws` (R39). -/
  ws : Pos
  /-- HBUF[0..6] (R40). -/
  hbuf : Vector Byte 7
  /-- The byte source (20_memory.md R61). -/
  source : Source
  /-- MODEL's own: a LOCATE or PEEK was accepted, so the byte source must not change any more (70_reset_and_hazards.md R273, R279;
  log 13). -/
  sourceInUse : Bool
  /-- MODEL's own: how many MemReads were made; it numbers the draws of R69 and counts the accesses of R281 (log 3). -/
  reads : Nat
  /-- MODEL's own: the outstanding MemRead is never answered (70_reset_and_hazards.md R282; log 5). -/
  stalled : Bool
  /-- MODEL's own: the value the last bus read delivered to the host (log 12). -/
  rdata : Word
  /-- MODEL's own: the host program and where it stands (30_encoding.md R110; log 11). -/
  agent : HostAgent
  /-- MODEL's own: the turns of the agents still to come (log 2). -/
  turns : List Turn
  deriving DecidableEq, Repr

/-- The faults. No command of the engine raises one: a failed command completes with a status code (60_exceptions.md R241). -/
inductive Fault where
  /-- Raised by the platform's turn `attach` with more than 2^64 bytes, which 00_scope.md R7 excludes (`L <= 2^64`). Safe: the
  machine stops where the spec has no such machine. -/
  | sourceTooLong
  deriving DecidableEq, Repr

/-- The refusals. No command of the engine raises one. -/
inductive Refusal where
  /-- An instruction with no meaning yet. No arm of exec uses it: every command has its meaning. Safe. -/
  | notModelled (mnemonic : String)
  /-- Raised by a bus access that is not 32 bits wide or not at a multiple of 4 (10_state.md R22: "A model refuses it"). Safe. -/
  | badAccess
  /-- Raised by the platform's turn `attach` once a LOCATE or PEEK was accepted, a reset since or not: a changed byte source
  (70_reset_and_hazards.md R279; 93_implementation_defined.md U3: `refuse`). Safe. -/
  | sourceChanged
  /-- Raised by a host branch to a label its program does not hold (30_encoding.md R110 gives it no meaning; log 11). Safe. -/
  | noSuchLabel (name : Nat)
  /-- Raised by `b.eq` on a field of a register the host has not read: it has no last read value (30_encoding.md R110; log 11).
  Safe. -/
  | fieldNeverRead (field : FieldName)
  deriving DecidableEq, Repr

/-- The machine right after reset (10_state.md R43), with the empty source attached and nothing scheduled (log 2, 3, 7, 11, 12). -/
def State.reset : State :=
  { ie := false, done := false, resValid := false, err := 0#4, donePend := false,
    argLo := 0#32, argHi := 0#32, pos := 0#64, hdrPos := 0#64, hdr := Header.zero,
    engine := .idle,
    wbuf := Vector.replicate 9 0x00#8, ws := 0#64, hbuf := Vector.replicate 7 0x00#8,
    source := Source.empty, sourceInUse := false, reads := 0, stalled := false, rdata := 0#32,
    agent := { prog := [], line := 0, seen := [] }, turns := [] }

end Sys2Proof.Machine
end

