-- ==== Sys2Proof/Machine/Flags.lean ====
section
/-! DEFINITION. The flags and every word computed from them: STATUS, CTRL, INT, the status codes and the output `irq`
(10_state.md R25 to R28, R37, R44; 60_exceptions.md R230). -/

namespace Sys2Proof.Machine

/-- STATUS.BUSY: 1 exactly when the engine is in RUN (10_state.md R38). -/
def State.busy (s : State) : Bool :=
  match s.engine with
  | .idle => false
  | .run _ _ => true

/-- The number of a status code (60_exceptions.md R230). -/
def StatusCode.bits (c : StatusCode) : BitVec 4 :=
  match c with
  | .ok => 0#4
  | .ioFailure => 1#4
  | .syncNotFound => 2#4
  | .invalidSyncword => 3#4
  | .invalidAudioObjectType => 4#4
  | .invalidFrameLength => 5#4
  | .noHeader => 6#4
  | .illegalCommand => 7#4

/-- CTRL as read: IE in bit 0, the rest RAZ (10_state.md R25). -/
def State.ctrlWord (s : State) : Word :=
  0#31 ++ BitVec.ofBool s.ie

/-- STATUS as read (10_state.md R27): BUSY bit 0, DONE bit 1, RES_VALID bit 2, bit 3 reserved, ERR bits 7:4, the rest reserved. -/
def State.statusWord (s : State) : Word :=
  0#24 ++ s.err ++ 0#1 ++ BitVec.ofBool s.resValid ++ BitVec.ofBool s.done ++ BitVec.ofBool s.busy

/-- INT as read: DONE_PEND in bit 0, the rest RAZ (10_state.md R28). -/
def State.intWord (s : State) : Word :=
  0#31 ++ BitVec.ofBool s.donePend

/-- The interrupt output, a level: `irq = INT.DONE_PEND AND CTRL.IE` (10_state.md R44, 60_exceptions.md R245). -/
def State.irq (s : State) : Bool :=
  s.donePend && s.ie

end Sys2Proof.Machine
end

