-- ==== Sys2Proof/Machine/Operands.lean ====
section
/-! DEFINITION. Operands: the command argument (30_encoding.md R93), position arithmetic (00_scope.md R9), the sync predicate
(40_locate.md R131), and the ADTS fixed header: its fields, its bit cursor, its layout and the audio object type map
(30_encoding.md R96 to R104). -/

namespace Sys2Proof.Machine

/-- `ARG = {ARG_HI, ARG_LO}` (10_state.md R29). -/
def State.argReg (s : State) : BitVec 64 :=
  s.argHi ++ s.argLo

/-- The argument of the command being run: the copy made at acceptance (10_state.md R29, R41). An idle engine has no copy;
there a command is taken as accepted now, with ARG as it stands (DESIGN CHOICE, log 9; no step of the machine comes here). -/
def State.cmdArg (s : State) : BitVec 64 :=
  match s.engine with
  | .run _ arg => arg
  | .idle => s.argReg

/-- `sint64(v)`: the 64-bit two's-complement value (00_scope.md R9, 30_encoding.md R93). -/
def sint64 (v : BitVec 64) : Int :=
  if v[63] then (v.toNat : Int) - 18446744073709551616 else (v.toNat : Int)

/-- The range check before a position is written: `[0, 2^64 - 1]` (00_scope.md R9). -/
abbrev posInRange (t : Int) : Prop :=
  0 ≤ t ∧ t < 18446744073709551616

/-- A position that passed the range check, as the register holds it. -/
def posOfInt (t : Int) : Pos :=
  BitVec.ofInt 64 t

/-- The sync predicate on a pair of adjacent bytes: `b0 = 0xFF AND (b1 AND 0xF0) = 0xF0` (40_locate.md R131). -/
def syncPair (b0 b1 : Byte) : Bool :=
  b0 == 0xFF#8 && (b1 &&& 0xF0#8) == 0xF0#8

/-- `match(w, p)` for a window `w[0..8]` and `p` in 0 .. 7 (40_locate.md R131). -/
def windowMatch (w : Vector Byte 9) (p : Fin 8) : Bool :=
  syncPair (w[p.val]'(by omega)) (w[p.val + 1]'(by omega))

/-- The first position of a window at which the predicate holds, tested in ascending order (40_locate.md R132). -/
def firstMatch (w : Vector Byte 9) : Option (Fin 8) :=
  [0, 1, 2, 3, 4, 5, 6, 7].find? (fun p => windowMatch w p)

/-- `match(S, k)` on the byte source itself (40_locate.md R131). -/
def Source.syncAt (src : Source) (k : Nat) : Bool :=
  syncPair (src.byteAt k) (src.byteAt (k + 1))

/-- `H = {b0, ..., b6}`, big-endian, `b0` in bits 55:48 (20_memory.md R64, 30_encoding.md R96). -/
def headerWord (b : Vector Byte 7) : BitVec 56 :=
  b[0] ++ b[1] ++ b[2] ++ b[3] ++ b[4] ++ b[5] ++ b[6]

/-- The fifteen fields of the fixed header, in stream order (30_encoding.md R96). -/
structure RawHeader where
  syncword          : BitVec 12
  mpegVersion       : BitVec 1
  layer             : BitVec 2
  protAbsent        : BitVec 1
  aotCode           : BitVec 2
  sfi               : BitVec 4
  privateBit        : BitVec 1
  chcfg             : BitVec 3
  originality       : BitVec 1
  home              : BitVec 1
  copyrightId       : BitVec 1
  copyrightIdStart  : BitVec 1
  frameLength       : BitVec 13
  bufferFullness    : BitVec 11
  rawDataBlockCount : BitVec 2
  deriving DecidableEq, Repr

/-- Field extraction at the fixed bit positions (30_encoding.md R97). -/
def extractFields (H : BitVec 56) : RawHeader :=
  { syncword          := H.extractLsb' 44 12
    mpegVersion       := H.extractLsb' 43 1
    layer             := H.extractLsb' 41 2
    protAbsent        := H.extractLsb' 40 1
    aotCode           := H.extractLsb' 38 2
    sfi               := H.extractLsb' 34 4
    privateBit        := H.extractLsb' 33 1
    chcfg             := H.extractLsb' 30 3
    originality       := H.extractLsb' 29 1
    home              := H.extractLsb' 28 1
    copyrightId       := H.extractLsb' 27 1
    copyrightIdStart  := H.extractLsb' 26 1
    frameLength       := H.extractLsb' 13 13
    bufferFullness    := H.extractLsb' 2 11
    rawDataBlockCount := H.extractLsb' 0 2 }

/-- `read_bits(n)` at cursor `c`, counted from 0 at `H[55]`: the value `H[55-c : 56-c-n]` and the cursor `c + n`
(30_encoding.md R98). -/
def readBits (H : BitVec 56) (c n : Nat) : BitVec n × Nat :=
  (H.extractLsb' (56 - c - n) n, c + n)

/-- `skip(n)` (30_encoding.md R98). -/
def skipBits (c n : Nat) : Nat :=
  c + n

/-- The same fields read with the bit cursor, in the field order and with the widths of 30_encoding.md R96; and where the
cursor ends (R98). -/
def extractByCursor (H : BitVec 56) : RawHeader × Nat :=
  let (syncword, c) := readBits H 0 12
  let (mpegVersion, c) := readBits H c 1
  let (layer, c) := readBits H c 2
  let (protAbsent, c) := readBits H c 1
  let (aotCode, c) := readBits H c 2
  let (sfi, c) := readBits H c 4
  let (privateBit, c) := readBits H c 1
  let (chcfg, c) := readBits H c 3
  let (originality, c) := readBits H c 1
  let (home, c) := readBits H c 1
  let (copyrightId, c) := readBits H c 1
  let (copyrightIdStart, c) := readBits H c 1
  let (frameLength, c) := readBits H c 13
  let (bufferFullness, c) := readBits H c 11
  let (rawDataBlockCount, c) := readBits H c 2
  ({ syncword, mpegVersion, layer, protAbsent, aotCode, sfi, privateBit, chcfg, originality, home, copyrightId,
     copyrightIdStart, frameLength, bufferFullness, rawDataBlockCount }, c)

/-- The layout of the fixed header: the fifteen fields as the 56-bit value `H` (30_encoding.md R96). -/
def layoutFields (r : RawHeader) : BitVec 56 :=
  r.syncword ++ r.mpegVersion ++ r.layer ++ r.protAbsent ++ r.aotCode ++ r.sfi ++ r.privateBit ++ r.chcfg ++
    r.originality ++ r.home ++ r.copyrightId ++ r.copyrightIdStart ++ r.frameLength ++ r.bufferFullness ++
    r.rawDataBlockCount

/-- Byte `i` of the 7 header bytes in stream order: `b0` is bits 55:48 of `H` (20_memory.md R64). -/
def headerByte (H : BitVec 56) (i : Fin 7) : Byte :=
  H.extractLsb' (48 - 8 * i.val) 8

/-- The audio object types (30_encoding.md R102). -/
inductive AudioObjectType where
  | aacMain | aacLc | aacSsr | aacLtp | sbr | aacScalable | twinVq | celp | layer1 | layer2 | layer3
  deriving DecidableEq, Repr

/-- The variant number, which the AOT field holds (30_encoding.md R102). -/
def AudioObjectType.number (t : AudioObjectType) : BitVec 6 :=
  match t with
  | .aacMain => 0#6
  | .aacLc => 1#6
  | .aacSsr => 2#6
  | .aacLtp => 3#6
  | .sbr => 4#6
  | .aacScalable => 5#6
  | .twinVq => 6#6
  | .celp => 7#6
  | .layer1 => 31#6
  | .layer2 => 32#6
  | .layer3 => 33#6

/-- `AOTMAP`: the 2-bit code to a variant (30_encoding.md R103). It maps every code; the arm for an unrecognized code stays in
the decoder (41_peek.md R164). -/
def aotMap (code : BitVec 2) : Option AudioObjectType :=
  match code.toNat with
  | 0 => some .aacMain
  | 1 => some .aacLc
  | 2 => some .aacSsr
  | 3 => some .aacLtp
  | _ => none

/-- The minimum frame length (41_peek.md R165). -/
def minFrameLength (protAbsent : BitVec 1) : Nat :=
  if protAbsent = 1#1 then Config.minLenNoCrc else Config.minLenCrc

/-- HDR_F0 as read (10_state.md R33, 41_peek.md R171): `{0, CHCFG, SFI, 00, AOT, 00, PROT_ABSENT, MPEG_VERSION, SYNCWORD}`. -/
def Header.f0 (h : Header) : Word :=
  0#1 ++ h.chcfg ++ h.sfi ++ 0#2 ++ h.aot ++ 0#2 ++ h.protAbsent ++ h.mpegVersion ++ h.syncword

/-- HDR_F1 as read: FRAME_LENGTH in bits 12:0 (10_state.md R34). -/
def Header.f1 (h : Header) : Word :=
  0#19 ++ h.frameLength

end Sys2Proof.Machine
end

