-- ==== Sys2Proof/Machine/Ops.lean ====
section
/-! DEFINITION. The named operations every meaning is built from: the writes of one register, the source read (20_memory.md R62),
acceptance (10_state.md R41), completion (60_exceptions.md R240), reset (70_reset_and_hazards.md R270, R271), and the
header checks of PEEK (41_peek.md R162 to R166). -/

namespace Sys2Proof.Machine

/-- What a meaning answers: a next state, a fault or a refusal. -/
abbrev Result := Host.Outcome State Fault Refusal

/-- `POS <- p`, the only jump (10_state.md R30). -/
def State.setPos (s : State) (p : Pos) : State :=
  { s with pos := p }

/-- The window start of the next window step (10_state.md R39). -/
def State.setWs (s : State) (p : Pos) : State :=
  { s with ws := p }

/-- The window buffer filled by a read (10_state.md R39). -/
def State.setWbuf (s : State) (w : Vector Byte 9) : State :=
  { s with wbuf := w }

/-- The header buffer filled by a read (10_state.md R40). -/
def State.setHbuf (s : State) (b : Vector Byte 7) : State :=
  { s with hbuf := b }

/-- One MemRead made (20_memory.md R69, 70_reset_and_hazards.md R281). -/
def State.countRead (s : State) : State :=
  { s with reads := s.reads + 1 }

/-- The engine waits for a read that is never answered: BUSY stays 1 (70_reset_and_hazards.md R282). -/
def State.stall (s : State) : State :=
  { s with stalled := true }

/-- LOCATE ends: no value of WBUF or `ws` survives the command (10_state.md R39); free values (log 6). -/
def State.dropScan (s : State) : State :=
  { s with wbuf := Config.wbufAfter s.reads, ws := Config.wsAfter s.reads }

/-- PEEK ends: HBUF carries nothing to the next PEEK (10_state.md R40); a free value (log 6). -/
def State.dropHbuf (s : State) : State :=
  { s with hbuf := Config.hbufAfter s.reads }

/-- The success writes of PEEK (41_peek.md R167). -/
def State.setResult (s : State) (p : Pos) (h : Header) : State :=
  { s with hdrPos := p, hdr := h, resValid := true }

/-- The failure writes of PEEK (41_peek.md R170). -/
def State.clearResult (s : State) : State :=
  { s with hdrPos := 0#64, hdr := Header.zero, resValid := false }

/-- Completion, the counterpart of trap entry (60_exceptions.md R240): engine IDLE (so BUSY 0), DONE 1, ERR the code,
DONE_PEND 1, and nothing else. There is no return from it (R243). -/
def State.complete (s : State) (c : StatusCode) : State :=
  { s with engine := .idle, done := true, err := c.bits, donePend := true }

/-- A command ends with a status code: `complete(OK)`, or `raise Fail(code)` after the writes its rule lists (00_scope.md R10,
60_exceptions.md R241). Either way the machine goes on. -/
def State.finish (s : State) (c : StatusCode) : Result :=
  .next (s.complete c)

/-- The words of the two commands that read the byte source, LOCATE and PEEK (20_memory.md R68). -/
def wordReadsSource (c : Word) : Bool :=
  c == encode .locate || c == encode .peek

/-- Acceptance of a command word (10_state.md R41, the arm for BUSY = 0): RUN with the word and a copy of ARG, DONE 0, ERR 0.
From the first LOCATE or PEEK on the byte source is in use (70_reset_and_hazards.md R273; log 13). -/
def State.accept (s : State) (c : Word) : State :=
  { s with engine := .run c s.argReg, done := false, err := 0#4, sourceInUse := s.sourceInUse || wordReadsSource c }

/-- A host's write to CMD (10_state.md R41): dropped while busy, else accepted. -/
def State.writeCmd (s : State) (c : Word) : State :=
  if s.busy then s else s.accept c

/-- `rst` (70_reset_and_hazards.md R270, R271): every register of the block at its reset value, the running command abandoned
without completion, the outstanding read dropped. The byte source, the record that it is in use, the host and the schedule are
not part of the block (log 14). -/
def State.afterRst (s : State) : State :=
  { State.reset with source := s.source, sourceInUse := s.sourceInUse, reads := s.reads, rdata := s.rdata, agent := s.agent, turns := s.turns }

/-- The answer to one source read of `n` bytes (20_memory.md R62), or none ever (70_reset_and_hazards.md R282). -/
inductive Answer (n : Nat) where
  | ok (bytes : Vector Byte n)
  | short
  | err
  | silent
  deriving DecidableEq, Repr

/-- The bytes `S[a] .. S[a+n-1]` in address order (20_memory.md R62, R64). -/
def Source.bytes (src : Source) (a n : Nat) : Vector Byte n :=
  Vector.ofFn (fun i : Fin n => src.byteAt (a + i.val))

/-- `MemRead(a, n)` as read number `k` of the run (20_memory.md R62): `Short` if `a + n > L`, without wrap-around; else `Err`
where the device's draw says so; else the bytes. A read that the source never answers is `silent` (R282, log 5). -/
def Source.answer (src : Source) (k a n : Nat) : Answer n :=
  if src.silentRead k then .silent
  else if src.len.val < a + n then .short
  else if src.errRead k then .err
  else .ok (src.bytes a n)

/-- The next source read of the engine (20_memory.md R62, R72); the caller counts it. -/
def State.memRead (s : State) (a n : Nat) : Answer n :=
  s.source.answer s.reads a n

/-- The result fields of an accepted header (41_peek.md R167): the AOT variant number of the code's map, the other kept fields
as extracted; the rest are discarded (R173). -/
def keptFields (r : RawHeader) (t : AudioObjectType) : Header :=
  { syncword := r.syncword, mpegVersion := r.mpegVersion, protAbsent := r.protAbsent, aot := t.number, sfi := r.sfi,
    chcfg := r.chcfg, frameLength := r.frameLength }

/-- PEEK's checks, in the order syncword, audio object type, frame length; the first that fails gives the code
(41_peek.md R163 to R166). -/
def checkHeader (r : RawHeader) : Except StatusCode Header :=
  if r.syncword = Config.syncword then
    match aotMap r.aotCode with
    | none => .error .invalidAudioObjectType
    | some t =>
      if r.frameLength.toNat < minFrameLength r.protAbsent then .error .invalidFrameLength
      else .ok (keptFields r t)
  else .error .invalidSyncword

/-- A command that reads the byte source is running: LOCATE or PEEK (20_memory.md R68). -/
def State.readsSource (s : State) : Bool :=
  match s.engine with
  | .idle => false
  | .run c _ => wordReadsSource c

end Sys2Proof.Machine
end

