-- ==== Sys2Proof/Machine/Locate.lean ====
section
/-! DEFINITION. LOCATE, the Startcode Scanner (40_locate.md): the window step, the scan, the command. -/

namespace Sys2Proof.Machine

/-- How one window step ends (40_locate.md R132). -/
inductive WindowEnd where
  /-- A match at position `p` of the window: the scan ends. -/
  | found (s : State) (p : Fin 8)
  /-- The read was `Short` or `Err`: the scan ends. -/
  | failed (s : State)
  /-- The read is never answered (70_reset_and_hazards.md R282). -/
  | hung (s : State)
  /-- No match: `ws` has moved on by the stride. -/
  | again (s : State)
  deriving DecidableEq, Repr

/-- One window step (40_locate.md R132): read 9 bytes at `ws`, test the eight pairs in ascending order, move on by 5. -/
def windowStep (s : State) : WindowEnd :=
  match s.memRead s.ws.toNat 9 with
  | .silent => .hung s.countRead.stall
  | .short => .failed s.countRead
  | .err => .failed s.countRead
  | .ok w =>
    let t := s.countRead.setWbuf w
    match firstMatch t.wbuf with
    | some p => .found t p
    | none => .again (t.setWs (t.ws + BitVec.ofNat 64 Config.stride))

/-- The scan (40_locate.md R133): window steps until one ends it. The first argument bounds the steps; `scanFuel` is enough for
every source (R143, log 18), and with no steps left the scan is still running. -/
def scan : Nat → State → WindowEnd
  | 0, s => .again s
  | n + 1, s =>
    match windowStep s with
    | .again t => scan n t
    | .found t p => .found t p
    | .failed t => .failed t
    | .hung t => .hung t

/-- A number of window steps that no scan from POS outruns (40_locate.md R143): `ws` grows by 5 a step, and a full read at `ws`
needs `ws + 9 <= L`. -/
def scanFuel (s : State) : Nat :=
  (s.source.len.val - s.pos.toNat) / Config.stride + 1

/-- LOCATE (40_locate.md R133 to R136): on a match `POS <- ws + p` and OK; on `Short` or `Err` `POS <- ws` and IOFailure. A read
that is never answered leaves the engine in RUN (70_reset_and_hazards.md R282). -/
def execLocate (s : State) : Result :=
  match scan (scanFuel s) (s.setWs s.pos) with
  | .found t p => (t.setPos (t.ws + BitVec.ofNat 64 p.val)).dropScan.finish .ok
  | .failed t => (t.setPos t.ws).dropScan.finish .ioFailure
  | .hung t => .next t
  | .again t => .next t

end Sys2Proof.Machine
end

