-- ==== Sys2Proof/Machine/Peek.lean ====
section
/-! DEFINITION. PEEK, the Header Decoder (41_peek.md). -/

namespace Sys2Proof.Machine

/-- PEEK fails (41_peek.md R169, R170): the results are cleared, POS is unchanged. -/
def peekFail (s : State) (c : StatusCode) : Result :=
  s.clearResult.dropHbuf.finish c

/-- PEEK on the 7 bytes in HBUF (41_peek.md R162 to R168): extraction, the checks, the success writes; POS is unchanged. -/
def peekDecode (s : State) : Result :=
  match checkHeader (extractFields (headerWord s.hbuf)) with
  | .error c => peekFail s c
  | .ok h => (s.setResult s.pos h).dropHbuf.finish .ok

/-- PEEK (41_peek.md R171): one read of 7 bytes at POS, whatever `protection_absent` turns out to be (R161). -/
def execPeek (s : State) : Result :=
  match s.memRead s.pos.toNat 7 with
  | .silent => .next s.countRead.stall
  | .short => peekFail s.countRead .ioFailure
  | .err => peekFail s.countRead .ioFailure
  | .ok b => peekDecode (s.countRead.setHbuf b)

end Sys2Proof.Machine
end

