-- ==== Sys2Proof/Machine/Position.lean ====
section
/-! DEFINITION. The meanings of the position and control commands: NOP, SEEK_ABS, SEEK_REL, ADVANCE, and the illegal command
words (42_position_and_control.md). None of them reads the byte source (R216). -/

namespace Sys2Proof.Machine

/-- NOP (42_position_and_control.md R200): `complete(OK)`. -/
def execNop (s : State) : Result :=
  s.finish .ok

/-- SEEK_ABS (42_position_and_control.md R202): `POS <- arg`. -/
def execSeekAbs (s : State) : Result :=
  (s.setPos s.cmdArg).finish .ok

/-- SEEK_REL (42_position_and_control.md R206): the target over the integers; out of range, IOFailure and POS unchanged. -/
def execSeekRel (s : State) : Result :=
  let t : Int := (s.pos.toNat : Int) + sint64 s.cmdArg
  if posInRange t then (s.setPos (posOfInt t)).finish .ok
  else s.finish .ioFailure

/-- ADVANCE (42_position_and_control.md R210): from HDR_POS, the header's start, by FRAME_LENGTH; NoHeader without a result. -/
def execAdvance (s : State) : Result :=
  if s.resValid then
    let t : Int := (s.hdrPos.toNat : Int) + (s.hdr.frameLength.toNat : Int)
    if posInRange t then (s.setPos (posOfInt t)).finish .ok
    else s.finish .ioFailure
  else s.finish .noHeader

/-- An illegal command word (42_position_and_control.md R215): IllegalCommand and no other effect, whatever makes the word
illegal. It is no row of the opcode table; the engine runs it all the same. -/
def execIllegal (s : State) : Result :=
  s.finish .illegalCommand

end Sys2Proof.Machine
end

