-- ==== Sys2Proof/Machine/Dispatch.lean ====
section
/-! DEFINITION. exec: one arm per constructor of Instr, each one direct call of its meaning. -/

namespace Sys2Proof.Machine

/-- The effect of a command, from acceptance to completion in one transition (10_state.md R42). -/
def exec (i : Instr) (s : State) : Host.Outcome State Fault Refusal :=
  match i with
  | .nop => Sys2Proof.Machine.execNop s
  | .seekAbs => Sys2Proof.Machine.execSeekAbs s
  | .seekRel => Sys2Proof.Machine.execSeekRel s
  | .locate => Sys2Proof.Machine.execLocate s
  | .peek => Sys2Proof.Machine.execPeek s
  | .advance => Sys2Proof.Machine.execAdvance s

end Sys2Proof.Machine
end

