-- ==== Sys2Proof/Machine/Engine.lean ====
section
/-! DEFINITION. The engine's turn (10_state.md R38, R41, R42): what the engine does with the word it took. -/

namespace Sys2Proof.Machine

/-- The completion of a command word (30_encoding.md R94, R95): a legal word runs its command, an illegal one completes with
IllegalCommand (60_exceptions.md R239, first priority). -/
def runWord (c : Word) (s : State) : Result :=
  match decode c with
  | .ok i => exec i s
  | .error _ => execIllegal s

/-- The engine's turn: idle, it does nothing (60_exceptions.md R253); waiting for a read that is never answered, it waits on
(70_reset_and_hazards.md R282); else it completes its command. -/
def engineTurn (s : State) : Result :=
  match s.engine with
  | .idle => .next s
  | .run c _ => if s.stalled then .next s else runWord c s

end Sys2Proof.Machine
end

