-- ==== Sys2Proof/Machine/Interface.lean ====
section
/-! DEFINITION. The host's side of the register window (10_state.md section 2): what each register reads as, what writing it
does, which accesses are refused; and the platform's two actions, reset and attaching the byte source. -/

namespace Sys2Proof.Machine

/-- What a register reads as (10_state.md R21 to R36). CMD is write-only and reads 0 (R26). -/
def State.readReg (s : State) (r : RegName) : Word :=
  match r with
  | .id => Config.idValue
  | .ctrl => s.ctrlWord
  | .cmd => 0#32
  | .status => s.statusWord
  | .int => s.intWord
  | .argLo => s.argLo
  | .argHi => s.argHi
  | .posLo => s.pos.extractLsb' 0 32
  | .posHi => s.pos.extractLsb' 32 32
  | .hdrPosLo => s.hdrPos.extractLsb' 0 32
  | .hdrPosHi => s.hdrPos.extractLsb' 32 32
  | .hdrF0 => s.hdr.f0
  | .hdrF1 => s.hdr.f1

/-- What writing a register does (10_state.md R21 to R30): RO registers ignore it, INT is write-1-to-clear (R28), writing CTRL
never touches a command (R25), writing CMD is a command request (R41). -/
def State.writeReg (s : State) (r : RegName) (v : Word) : State :=
  match r with
  | .id => s
  | .ctrl => { s with ie := v[0] }
  | .cmd => s.writeCmd v
  | .status => s
  | .int => if v[0] then { s with donePend := false } else s
  | .argLo => { s with argLo := v }
  | .argHi => { s with argHi := v }
  | .posLo => s
  | .posHi => s
  | .hdrPosLo => s
  | .hdrPosHi => s
  | .hdrF0 => s
  | .hdrF1 => s

/-- A read at an aligned offset; reserved offsets read 0 (10_state.md R23). -/
def State.readOffset (s : State) (off : BitVec 8) : Word :=
  match RegName.ofOffset off with
  | some r => s.readReg r
  | none => 0#32

/-- A write at an aligned offset; writes to reserved offsets are ignored (10_state.md R23). -/
def State.writeOffset (s : State) (off : BitVec 8) (v : Word) : State :=
  match RegName.ofOffset off with
  | some r => s.writeReg r v
  | none => s

/-- A value delivered to the host by a bus read (log 12); a read changes no register (10_state.md R21). -/
def State.deliver (s : State) (v : Word) : State :=
  { s with rdata := v }

/-- One bus access of a host (10_state.md R21, R22): refused unless 32 bits wide and aligned. -/
def busAccess (s : State) (a : Access) : Result :=
  match a with
  | .read w off => if accessOk w off then .next (s.deliver (s.readOffset off)) else .refused .badAccess
  | .write w off v => if accessOk w off then .next (s.writeOffset off v) else .refused .badAccess

/-- The source a platform attaches, in canonical form (20_memory.md R61, R70). -/
def State.setSource (s : State) (len : Fin 18446744073709551617) (cells : List Host.Cell)
    (errDraws silentDraws : Draws) : State :=
  { s with source := { len := len, cells := placeCells len.val cells, errDraws := errDraws, silentDraws := silentDraws } }

/-- The platform attaches a byte source: before the first LOCATE or PEEK (70_reset_and_hazards.md R273); after that the source
must not change (R279), also after a reset, and a run that changes it is refused (log 13). -/
def attachSource (s : State) (len : Nat) (cells : List Host.Cell) (errDraws silentDraws : Draws) : Result :=
  if h : len < 18446744073709551617 then
    if s.sourceInUse then .refused .sourceChanged
    else .next (s.setSource ⟨len, h⟩ cells errDraws silentDraws)
  else .fault .sourceTooLong

end Sys2Proof.Machine
end

