-- ==== Sys2Proof/Machine/HostProgram.lean ====
section
/-! DEFINITION. The host agent (30_encoding.md R110): what one line of a host program does. The control flow is the host's; the
engine has none (42_position_and_control.md R219). -/

namespace Sys2Proof.Machine

/-- The host goes on to a line of its program. -/
def State.gotoLine (s : State) (n : Nat) : State :=
  { s with agent := { s.agent with line := n } }

/-- The host goes on to the next line. -/
def State.nextLine (s : State) : State :=
  s.gotoLine (s.agent.line + 1)

/-- `rd <REG>`: a 32-bit read; the host keeps the value under the register's name. -/
def State.hostRead (s : State) (r : RegName) : State :=
  let v := s.readOffset r.offset
  { s.deliver v with agent := { s.agent with seen := recordRead r v s.agent.seen } }

/-- A branch to a label of the program (log 11 for a label the program does not hold). -/
def branchTo (s : State) (target : Nat) : Result :=
  match findLabel target s.agent.prog with
  | some n => .next (s.gotoLine n)
  | none => .refused (.noSuchLabel target)

/-- `wait`, one round: `rd STATUS`, and on to the next line once BUSY is 0. -/
def hostWait (s : State) : Result :=
  let t := s.hostRead .status
  if s.busy then .next t else .next t.nextLine

/-- `b.eq`: the last read value of the field against the immediate (log 11 for a field never read). -/
def hostBranchEq (s : State) (f : FieldName) (imm : Word) (target : Nat) : Result :=
  match lastRead f.reg s.agent.seen with
  | some v => if f.extract v = imm then branchTo s target else .next s.nextLine
  | none => .refused (.fieldNeverRead f)

/-- One line of the host program (30_encoding.md R110). -/
def runLine (l : AsmLine) (s : State) : Result :=
  match l with
  | .wr r imm => .next (s.writeOffset r.offset imm).nextLine
  | .rd r => .next (s.hostRead r).nextLine
  | .wait => hostWait s
  | .bErr target => if s.err ≠ 0#4 then branchTo s target else .next s.nextLine
  | .bEq f imm target => hostBranchEq s f imm target
  | .b target => branchTo s target
  | .halt => .next s
  | .label _ => .next s.nextLine

/-- The host agent's turn: the line it is at; with no line left it makes no access. -/
def hostTurn (s : State) : Result :=
  match s.agent.prog[s.agent.line]? with
  | some l => runLine l s
  | none => .next s

end Sys2Proof.Machine
end

