-- ==== Sys2Proof/Machine/Schedule.lean ====
section
/-! DEFINITION. Whose turn it is (10_state.md R20; log 2): the next entry of the schedule, and with none left the engine while a
command runs, else the host program. -/

namespace Sys2Proof.Machine

/-- One turn taken from the schedule. -/
def takeTurn (t : Turn) (s : State) : Result :=
  match t with
  | .engine => engineTurn s
  | .host => hostTurn s
  | .bus a => busAccess s a
  | .rst => .next s.afterRst
  | .attach len cells errDraws silentDraws => attachSource s len cells errDraws silentDraws

/-- With nothing scheduled: a running command goes on; an idle block waits for its host (60_exceptions.md R253,
70_reset_and_hazards.md R272). -/
def freeTurn (s : State) : Result :=
  if s.busy then engineTurn s else hostTurn s

/-- The rest of the schedule after its first entry. -/
def State.popTurn (s : State) : State :=
  { s with turns := s.turns.tail }

/-- One transition of the machine. -/
def nextTurn (s : State) : Result :=
  match s.turns with
  | [] => freeTurn s
  | t :: _ => takeTurn t s.popTurn

/-- The command word `w` accepted, and the engine's turn next: what State.withFetchWord places (log 10). -/
def State.withCommand (s : State) (nbits w : Nat) : State :=
  { s.accept (BitVec.ofNat 32 (w % 2 ^ nbits)) with stalled := false, turns := [] }

end Sys2Proof.Machine
end

