-- ==== Sys2Proof/Machine/Step.lean ====
section
/-! DEFINITION. One step of the machine, and the placing of a command where the engine takes it from. -/

namespace Sys2Proof.Machine

/-- One step: the next turn of the schedule. -/
def step (s : State) : Host.Outcome State Fault Refusal :=
  nextTurn s

/-- `s` with the command word `w` (of `nbits` bits) accepted, so that the very next step runs it. ADTS-HDR fetches nothing
(20_memory.md R74): a command comes to the engine by acceptance (10_state.md R41; log 10). -/
def State.withFetchWord (s : State) (nbits w : Nat) : State :=
  s.withCommand nbits w

end Sys2Proof.Machine
end

