-- ==== Sys2Proof/Safety.lean ====
section
/-! DEFINITION. What claims rest on: the invariant of the machine (10_state.md R27, R35, R36, R38; 60_exceptions.md R238), and what
a host can see. -/

namespace Sys2Proof.Machine

/-- `BUSY = 1` and `DONE = 1` never hold together (10_state.md R27). -/
def State.busyDoneExclusive (s : State) : Prop :=
  s.busy = true → s.done = false

/-- ERR is one of the codes a command produces, in `{0, 1, 3, 5, 6, 7}` (60_exceptions.md R238), and 0 while DONE is 0
(10_state.md R27, R41). -/
def State.errLegal (s : State) : Prop :=
  s.err ∈ [0#4, 1#4, 3#4, 5#4, 6#4, 7#4] ∧ (s.done = false → s.err = 0#4)

/-- With RES_VALID = 0 the result registers are 0 (10_state.md R36). -/
def State.resultCleared (s : State) : Prop :=
  s.resValid = false → s.hdrPos = 0#64 ∧ s.hdr = Header.zero

/-- The properties of an accepted header (10_state.md R35). -/
def Header.accepted (h : Header) : Prop :=
  h.syncword = 0xFFF#12 ∧ h.aot ∈ [0#6, 1#6, 2#6, 3#6] ∧
    (h.protAbsent = 1#1 → 7 ≤ h.frameLength.toNat) ∧ (h.protAbsent = 0#1 → 9 ≤ h.frameLength.toNat)

/-- With RES_VALID = 1 the result registers hold the DecodedHeader of the 7 bytes at HDR_POS, all of them in the source, and its
properties hold (10_state.md R35). -/
def State.resultDecoded (s : State) : Prop :=
  s.resValid = true →
    s.hdrPos.toNat + 7 ≤ s.source.len.val ∧
    checkHeader (extractFields (headerWord (s.source.bytes s.hdrPos.toNat 7))) = .ok s.hdr ∧
    s.hdr.accepted

/-- Until the byte source is in use no result is valid, no read was made and no command that reads it runs (log 13); only a running
engine waits for a read; the source is in canonical form. -/
def State.recordsSound (s : State) : Prop :=
  (s.sourceInUse = false → s.resValid = false ∧ s.reads = 0 ∧ s.readsSource = false) ∧ (s.stalled = true → s.busy = true) ∧ s.source.wf = true

/-- The invariant that every step keeps. -/
structure State.Inv (s : State) : Prop where
  exclusive : s.busyDoneExclusive
  err       : s.errLegal
  cleared   : s.resultCleared
  decoded   : s.resultDecoded
  records   : s.recordsSound

/-- No source read from now on reports a device error: the premise "no read returns `Err`" (93_implementation_defined.md U1). -/
def State.noDeviceError (s : State) : Prop :=
  ∀ k, s.reads ≤ k → ¬ s.source.errRead k

/-- Every source read from now on is answered: the liveness assumption (70_reset_and_hazards.md R283). -/
def State.allAnswered (s : State) : Prop :=
  ∀ k, s.reads ≤ k → ¬ s.source.silentRead k

/-- The next source read is answered, without a device error. -/
def State.nextReadGood (s : State) : Prop :=
  ¬ s.source.silentRead s.reads ∧ ¬ s.source.errRead s.reads

/-- Where a field stands: its register, its lowest bit and its width (10_state.md R27, R33, R34). -/
def FieldName.place (f : FieldName) : RegName × Nat × Nat :=
  match f with
  | .busy => (.status, 0, 1)
  | .done => (.status, 1, 1)
  | .resValid => (.status, 2, 1)
  | .err => (.status, 4, 4)
  | .syncword => (.hdrF0, 0, 12)
  | .mpegVersion => (.hdrF0, 12, 1)
  | .protAbsent => (.hdrF0, 13, 1)
  | .aot => (.hdrF0, 16, 6)
  | .sfi => (.hdrF0, 24, 4)
  | .chcfg => (.hdrF0, 28, 3)
  | .frameLength => (.hdrF1, 0, 13)

/-- Byte `i` of the header at POS, as a number (30_encoding.md R97). -/
def State.hdrByte (s : State) (i : Nat) : Nat :=
  (s.source.byteAt (s.pos.toNat + i)).toNat

/-- `k*`: the least `k >= start` with `k + 1 < L` and `match(S, k)` (40_locate.md R139). -/
def Source.firstSync (src : Source) (start k : Nat) : Prop :=
  start ≤ k ∧ k + 1 < src.len.val ∧ src.syncAt k = true ∧ ∀ j, start ≤ j → j < k → src.syncAt j = false

/-- `j(d)`: the number of the window that finds a match at distance `d` (40_locate.md R139). -/
def windowsTo (d : Nat) : Nat :=
  if d ≤ 7 then 0 else (d - 7 + 4) / 5

/-- `J`: the number of full windows from `start` (40_locate.md R139). -/
def fullWindows (len start : Nat) : Nat :=
  if len < start + 9 then 0 else (len - start - 9) / 5 + 1

/-- What the register window shows (10_state.md R21, R37): every readable register and the output `irq`. -/
def State.visible (s : State) : List Word × Bool :=
  ([s.readReg .id, s.readReg .ctrl, s.readReg .cmd, s.readReg .status, s.readReg .int, s.readReg .argLo, s.readReg .argHi,
    s.readReg .posLo, s.readReg .posHi, s.readReg .hdrPosLo, s.readReg .hdrPosHi, s.readReg .hdrF0, s.readReg .hdrF1], s.irq)

end Sys2Proof.Machine
end

