-- ==== Sys2Proof/Certificates/Slice0/Obligations.lean ====
section
/-! DEFINITION. The statements about ADTS-HDR that the provers settle. Each docstring names the rule it formalises. A statement
about a next state gives the whole state as a record update of the old one, so that it says the result, what else is written,
and that everything else (the byte source with every byte of it among it) is unchanged. -/

open Sys2Proof Sys2Proof.Machine

/-! ### Command words -/

/-- 30_encoding.md R92: the opcode map, word by word, and the reserved opcodes 0x6 to 0xF. -/
def Obligations.CommandWordsDecodeByOpcodeMap : Prop :=
  decode 0x00000000#32 = .ok .nop ∧ decode 0x00000001#32 = .ok .seekAbs ∧ decode 0x00000002#32 = .ok .seekRel ∧
  decode 0x00000003#32 = .ok .locate ∧ decode 0x00000004#32 = .ok .peek ∧ decode 0x00000005#32 = .ok .advance ∧
  (∀ op : BitVec 4, 6 ≤ op.toNat → decode (0#28 ++ op) = .error .reservedOp)

/-- 30_encoding.md R95: the decode is total and exact. A word below 6 is the command of that opcode, and no other word is;
every other word is illegal. -/
def Obligations.DecodeIsTotalAndExact : Prop :=
  (∀ i, (encode i).toNat < 6) ∧
  (∀ w : Word, w.toNat < 6 → ∃ i, decode w = .ok i ∧ w = encode i) ∧
  (∀ (w : Word) (i : Instr), decode w = .ok i → w = encode i) ∧
  (∀ w : Word, 6 ≤ w.toNat → ∃ e, decode w = .error e)

/-- 30_encoding.md R91, R94: which words are illegal and why; a nonzero RSV is so whatever OP is. -/
def Obligations.IllegalWordsAreNamed : Prop :=
  ∀ w : Word,
    (decode w = .error .reservedBits ↔ w.toNat / 16 ≠ 0) ∧
    (decode w = .error .reservedOp ↔ w.toNat / 16 = 0 ∧ 6 ≤ w.toNat % 16)

/-! ### The header layout -/

/-- 30_encoding.md R96, R97: laying the fifteen fields out and extracting them gives them back at every value of every field,
and extracting and laying out gives the 56 bits back, so no bit is dropped. -/
def Obligations.HeaderLayoutRoundTrips : Prop :=
  (∀ r : RawHeader, extractFields (layoutFields r) = r) ∧ (∀ H : BitVec 56, layoutFields (extractFields H) = H)

/-- 30_encoding.md R98: the bit cursor reads the same fields and ends at 56; skipping moves it as reading does. -/
def Obligations.CursorReadsTheFixedPositions : Prop :=
  ∀ H : BitVec 56, extractByCursor H = (extractFields H, 56) ∧ ∀ c n, skipBits c n = (readBits H c n).2

/-- 30_encoding.md R109: the scan predicate holds exactly when the syncword check of PEEK passes at the same address. -/
def Obligations.SyncPredicateIsTheSyncword : Prop :=
  ∀ (src : Source) (a : Nat),
    src.syncAt a = true ↔ (extractFields (headerWord (src.bytes a 7))).syncword = 0xFFF#12

/-- 10_state.md R33, R34: the words HDR_F0 and HDR_F1, field by field; the reserved bits are 0. -/
def Obligations.ResultWordsHoldTheFields : Prop :=
  ∀ h : Header,
    h.f0.toNat = h.syncword.toNat + 2 ^ 12 * h.mpegVersion.toNat + 2 ^ 13 * h.protAbsent.toNat + 2 ^ 16 * h.aot.toNat +
      2 ^ 24 * h.sfi.toNat + 2 ^ 28 * h.chcfg.toNat ∧
    h.f1.toNat = h.frameLength.toNat

/-! ### The step -/

/-- 10_state.md R42, R38: when the engine runs a word that decodes to a command, its turn is exactly that command's effect, on
the state with its turn taken. The model's schedule (log 2) adds nothing else. -/
def Obligations.StepRunsTheDecodedCommand : Prop :=
  ∀ (s : State) (c : Word) (a : BitVec 64) (i : Instr),
    s.engine = .run c a → s.stalled = false → decode c = .ok i →
      (s.turns = [] → step s = exec i s) ∧
      (∀ rest, s.turns = .engine :: rest → step s = exec i { s with turns := rest })

/-- 42_position_and_control.md R215, 60_exceptions.md R237: an illegal word completes with IllegalCommand and no other effect, with
nothing scheduled or in an engine turn of the schedule. -/
def Obligations.IllegalWordCompletesWithIllegalCommand : Prop :=
  ∀ (s : State) (c : Word) (a : BitVec 64),
    s.engine = .run c a → s.stalled = false → (6 ≤ c.toNat % 16 ∨ c.toNat / 16 ≠ 0) →
      (s.turns = [] → step s = .next { s with engine := .idle, done := true, err := 7#4, donePend := true }) ∧
      (∀ rest, s.turns = .engine :: rest →
        step s = .next { s with turns := rest, engine := .idle, done := true, err := 7#4, donePend := true })

/-- 60_exceptions.md R253: idle, the block does nothing until its host acts, and all state survives. The two ways in which the
host does not act, no schedule and no line left or `halt`, are the model's own (log 2, log 11). -/
def Obligations.IdleBlockWaitsUnchanged : Prop :=
  ∀ s : State, s.engine = .idle → s.turns = [] →
    (s.agent.prog[s.agent.line]? = none ∨ s.agent.prog[s.agent.line]? = some .halt) → step s = .next s

/-- The model's schedule (log 2): each entry gives its agent the turn, once. -/
def Obligations.ScheduleGivesEachAgentItsTurn : Prop :=
  ∀ (s : State) (rest : List Turn),
    (s.turns = .engine :: rest → step s = engineTurn { s with turns := rest }) ∧
    (s.turns = .host :: rest → step s = hostTurn { s with turns := rest }) ∧
    (∀ a, s.turns = .bus a :: rest → step s = busAccess { s with turns := rest } a) ∧
    (s.turns = .rst :: rest → step s = .next ({ s with turns := rest } : State).afterRst) ∧
    (∀ len cells errDraws silentDraws, s.turns = .attach len cells errDraws silentDraws :: rest →
      step s = attachSource { s with turns := rest } len cells errDraws silentDraws) ∧
    (s.turns = [] → s.engine ≠ .idle → step s = engineTurn s) ∧
    (s.turns = [] → s.engine = .idle → step s = hostTurn s)

/-! ### NOP, SEEK_ABS, SEEK_REL, ADVANCE -/

/-- 42_position_and_control.md R200: NOP completes with OK and writes only the completion bookkeeping. -/
def Obligations.NopCompletesAndChangesNothingElse : Prop :=
  ∀ s : State, exec .nop s = .next { s with engine := .idle, done := true, err := 0#4, donePend := true }

/-- 42_position_and_control.md R202: SEEK_ABS writes POS with the argument copied at acceptance, whatever it is. -/
def Obligations.SeekAbsSetsPosition : Prop :=
  ∀ (s : State) (c : Word) (arg : BitVec 64), s.engine = .run c arg →
    exec .seekAbs s = .next { s with pos := arg, engine := .idle, done := true, err := 0#4, donePend := true }

/-- 42_position_and_control.md R206: SEEK_REL moves POS by the signed argument over the integers, or fails with IOFailure and POS
unchanged when the target leaves [0, 2^64 - 1]. -/
def Obligations.SeekRelMovesOrFails : Prop :=
  ∀ (s : State) (c : Word) (arg : BitVec 64), s.engine = .run c arg →
    (0 ≤ (s.pos.toNat : Int) + arg.toInt ∧ (s.pos.toNat : Int) + arg.toInt ≤ 2 ^ 64 - 1 →
      ∃ p : Pos, (p.toNat : Int) = (s.pos.toNat : Int) + arg.toInt ∧
        exec .seekRel s = .next { s with pos := p, engine := .idle, done := true, err := 0#4, donePend := true }) ∧
    ((s.pos.toNat : Int) + arg.toInt < 0 ∨ 2 ^ 64 - 1 < (s.pos.toNat : Int) + arg.toInt →
      exec .seekRel s = .next { s with engine := .idle, done := true, err := 1#4, donePend := true })

/-- 42_position_and_control.md R210, R211: ADVANCE moves POS to HDR_POS + FRAME_LENGTH, or fails with NoHeader without a result, or
with IOFailure beyond 2^64 - 1. -/
def Obligations.AdvanceMovesOrFails : Prop :=
  ∀ s : State,
    (s.resValid = true → s.hdrPos.toNat + s.hdr.frameLength.toNat ≤ 2 ^ 64 - 1 →
      ∃ p : Pos, p.toNat = s.hdrPos.toNat + s.hdr.frameLength.toNat ∧
        exec .advance s = .next { s with pos := p, engine := .idle, done := true, err := 0#4, donePend := true }) ∧
    (s.resValid = true → 2 ^ 64 - 1 < s.hdrPos.toNat + s.hdr.frameLength.toNat →
      exec .advance s = .next { s with engine := .idle, done := true, err := 1#4, donePend := true }) ∧
    (s.resValid = false →
      exec .advance s = .next { s with engine := .idle, done := true, err := 6#4, donePend := true })

/-- 42_position_and_control.md R213: two ADVANCEs in a row leave the state of the first: ADVANCE is idempotent. -/
def Obligations.AdvanceIsIdempotent : Prop :=
  ∀ s t : State, exec .advance s = .next t → exec .advance (t.accept (encode .advance)) = .next t

/-- 42_position_and_control.md R218 (and R212): after a successful PEEK at `s`, an ADVANCE never moves POS backward, and where it
does not fail it moves POS forward by at least 7 bytes, and by at least 9 when PROT_ABSENT = 0. While `L <= 2^64 - 8185` it never
fails. -/
def Obligations.AdvanceAfterPeekMovesForward : Prop :=
  ∀ (s t : State) (c : Word), ¬ s.source.silentRead s.reads → exec .peek s = .next t → t.err = 0#4 →
    ∃ u, exec .advance (t.accept c) = .next u ∧ s.pos.toNat ≤ u.pos.toNat ∧
      (u.err = 0#4 → s.pos.toNat + 7 ≤ u.pos.toNat ∧ (t.hdr.protAbsent = 0#1 → s.pos.toNat + 9 ≤ u.pos.toNat)) ∧
      (s.source.len.val ≤ 18446744073709543431 → u.err = 0#4)

/-! ### PEEK -/

/-- 41_peek.md R167, R168: PEEK on an acceptable header writes the kept fields, HDR_POS and RES_VALID, completes with OK, and leaves
POS. The fields are given as arithmetic on the header bytes, by 30_encoding.md R97; so are the words of HDR_F0 and HDR_F1, whose
reserved bits are 0. -/
def Obligations.PeekAcceptsTheHeader : Prop :=
  ∀ s : State, s.nextReadGood → s.pos.toNat + 7 ≤ s.source.len.val →
    s.hdrByte 0 * 16 + s.hdrByte 1 / 16 = 0xFFF →
    (if s.hdrByte 1 % 2 = 1 then 7 else 9) ≤ s.hdrByte 3 % 4 * 2048 + s.hdrByte 4 * 8 + s.hdrByte 5 / 32 →
      ∃ t, exec .peek s = .next t ∧
        t.hdr.syncword.toNat = 0xFFF ∧ t.hdr.mpegVersion.toNat = s.hdrByte 1 / 8 % 2 ∧
        t.hdr.protAbsent.toNat = s.hdrByte 1 % 2 ∧ t.hdr.aot.toNat = s.hdrByte 2 / 64 ∧
        t.hdr.sfi.toNat = s.hdrByte 2 / 4 % 16 ∧ t.hdr.chcfg.toNat = s.hdrByte 2 % 2 * 4 + s.hdrByte 3 / 64 ∧
        t.hdr.frameLength.toNat = s.hdrByte 3 % 4 * 2048 + s.hdrByte 4 * 8 + s.hdrByte 5 / 32 ∧
        t.hdr.f0.toNat = 0xFFF + 2 ^ 12 * t.hdr.mpegVersion.toNat + 2 ^ 13 * t.hdr.protAbsent.toNat + 2 ^ 16 * t.hdr.aot.toNat +
          2 ^ 24 * t.hdr.sfi.toNat + 2 ^ 28 * t.hdr.chcfg.toNat ∧
        t.hdr.f1.toNat = t.hdr.frameLength.toNat ∧
        t = { s with hdrPos := s.pos, hdr := t.hdr, resValid := true, hbuf := t.hbuf, reads := s.reads + 1,
                     engine := .idle, done := true, err := 0#4, donePend := true }

/-- 41_peek.md R163, R166, 60_exceptions.md R233: a syncword other than 0xFFF fails with InvalidSyncword, whatever the frame length;
the results are cleared and POS is unchanged. -/
def Obligations.PeekRejectsAnotherSyncword : Prop :=
  ∀ s : State, s.nextReadGood → s.pos.toNat + 7 ≤ s.source.len.val →
    s.hdrByte 0 * 16 + s.hdrByte 1 / 16 ≠ 0xFFF →
      ∃ t, exec .peek s = .next t ∧
        t = { s with hdrPos := 0#64, hdr := Header.zero, resValid := false, hbuf := t.hbuf, reads := s.reads + 1,
                     engine := .idle, done := true, err := 3#4, donePend := true }

/-- 41_peek.md R165, 60_exceptions.md R235: a frame length below the minimum (7, or 9 with a CRC) fails with InvalidFrameLength; the
results are cleared and POS is unchanged. -/
def Obligations.PeekRejectsAShortFrameLength : Prop :=
  ∀ s : State, s.nextReadGood → s.pos.toNat + 7 ≤ s.source.len.val →
    s.hdrByte 0 * 16 + s.hdrByte 1 / 16 = 0xFFF →
    s.hdrByte 3 % 4 * 2048 + s.hdrByte 4 * 8 + s.hdrByte 5 / 32 < (if s.hdrByte 1 % 2 = 1 then 7 else 9) →
      ∃ t, exec .peek s = .next t ∧
        t = { s with hdrPos := 0#64, hdr := Header.zero, resValid := false, hbuf := t.hbuf, reads := s.reads + 1,
                     engine := .idle, done := true, err := 5#4, donePend := true }

/-- 41_peek.md R161, R170: a read that is Short or ends in Err fails with IOFailure; the results are cleared and POS is unchanged. -/
def Obligations.PeekFailsOnAFailedRead : Prop :=
  ∀ s : State, ¬ s.source.silentRead s.reads →
    (s.source.len.val < s.pos.toNat + 7 ∨ s.source.errRead s.reads) →
      ∃ t, exec .peek s = .next t ∧
        t = { s with hdrPos := 0#64, hdr := Header.zero, resValid := false, hbuf := t.hbuf, reads := s.reads + 1,
                     engine := .idle, done := true, err := 1#4, donePend := true }

/-- 41_peek.md R168, R169, R170: whatever PEEK does, it writes only HDR_POS, HDR_F0, HDR_F1, RES_VALID, the completion bookkeeping,
its hidden buffer and the model's read records; and where it completes with a failure the results are cleared. -/
def Obligations.PeekFrame : Prop :=
  ∀ s t : State, exec .peek s = .next t →
    t = { s with hdrPos := t.hdrPos, hdr := t.hdr, resValid := t.resValid, hbuf := t.hbuf, reads := s.reads + 1,
                 stalled := t.stalled, engine := t.engine, done := t.done, err := t.err, donePend := t.donePend } ∧
    (s.busy = true → t.engine = .idle → t.err ≠ 0#4 →
      t.resValid = false ∧ t.hdrPos = 0#64 ∧ t.hdr.f0 = 0#32 ∧ t.hdr.f1 = 0#32)

/-- 41_peek.md R177: the round trip. Any field values with syncword 0xFFF and a frame length of at least the minimum, laid out in 7
bytes at POS, come back from PEEK. -/
def Obligations.PeekRoundTrip : Prop :=
  ∀ (s : State) (r : RawHeader), s.nextReadGood → s.pos.toNat + 7 ≤ s.source.len.val →
    r.syncword = 0xFFF#12 → (if r.protAbsent = 1#1 then 7 else 9) ≤ r.frameLength.toNat →
    (∀ i : Fin 7, s.source.byteAt (s.pos.toNat + i.val) = headerByte (layoutFields r) i) →
      ∃ t, exec .peek s = .next t ∧ t.engine = .idle ∧ t.done = true ∧ t.err = 0#4 ∧ t.resValid = true ∧
        t.hdrPos = s.pos ∧
        t.hdr = { syncword := r.syncword, mpegVersion := r.mpegVersion, protAbsent := r.protAbsent,
                  aot := r.aotCode.setWidth 6, sfi := r.sfi, chcfg := r.chcfg, frameLength := r.frameLength }

/-- 41_peek.md R176: PEEK is idempotent and non-consuming: a second one at the same POS, with no read answered by Err, completes
with the same code and the same results, and POS is the same before and after each. -/
def Obligations.PeekIsIdempotent : Prop :=
  ∀ (s : State) (c : Word), ¬ s.source.silentRead s.reads → ¬ s.source.silentRead (s.reads + 1) →
    ¬ s.source.errRead s.reads → ¬ s.source.errRead (s.reads + 1) →
      ∃ t u, exec .peek s = .next t ∧ exec .peek (t.accept c) = .next u ∧
        t.done = true ∧ u.done = true ∧ u.err = t.err ∧ u.hdrPos = t.hdrPos ∧ u.hdr = t.hdr ∧ u.resValid = t.resValid ∧
        t.pos = s.pos ∧ u.pos = s.pos

/-- 41_peek.md R172, R174: PEEK's result depends only on POS, the 7 bytes there, L and the answer to its read; not on the CRC, not on
any earlier command. -/
def Obligations.PeekDependsOnItsSevenBytesOnly : Prop :=
  ∀ s s' : State, s.pos = s'.pos → s.source.len = s'.source.len →
    (∀ i, i < 7 → s.source.byteAt (s.pos.toNat + i) = s'.source.byteAt (s.pos.toNat + i)) →
    ¬ s.source.silentRead s.reads → ¬ s'.source.silentRead s'.reads →
    (s.source.errRead s.reads ↔ s'.source.errRead s'.reads) →
      ∃ t t', exec .peek s = .next t ∧ exec .peek s' = .next t' ∧ t.err = t'.err ∧ t.resValid = t'.resValid ∧
        t.hdrPos = t'.hdrPos ∧ t.hdr = t'.hdr ∧ t.pos = t'.pos

/-- 41_peek.md R178: a PEEK issued next after a LOCATE that completed with OK never fails with InvalidSyncword. -/
def Obligations.PeekAfterLocateNeverMissesTheSyncword : Prop :=
  ∀ s t u : State, s.busy = true → exec .locate s = .next t → t.engine = .idle → t.err = 0#4 →
    exec .peek (t.accept (encode .peek)) = .next u → u.engine = .idle →
      u.err = 0#4 ∨ u.err = 1#4 ∨ u.err = 5#4

/-! ### LOCATE -/

/-- 40_locate.md R139: the closed form of LOCATE for a run in which no read is answered by Err, with the number of reads. -/
def Obligations.LocateClosedForm : Prop :=
  ∀ s : State, s.noDeviceError → s.allAnswered →
    (∀ k, s.source.firstSync s.pos.toNat k →
      s.pos.toNat + 5 * windowsTo (k - s.pos.toNat) + 9 ≤ s.source.len.val →
        ∃ t, exec .locate s = .next t ∧
          t = { s with pos := BitVec.ofNat 64 k, wbuf := t.wbuf, ws := t.ws,
                       reads := s.reads + (windowsTo (k - s.pos.toNat) + 1),
                       engine := .idle, done := true, err := 0#4, donePend := true } ∧ t.pos.toNat = k) ∧
    ((∀ k, s.source.firstSync s.pos.toNat k →
        s.source.len.val < s.pos.toNat + 5 * windowsTo (k - s.pos.toNat) + 9) →
      ∃ t, exec .locate s = .next t ∧
        t = { s with pos := BitVec.ofNat 64 (s.pos.toNat + 5 * fullWindows s.source.len.val s.pos.toNat),
                     wbuf := t.wbuf, ws := t.ws,
                     reads := s.reads + (fullWindows s.source.len.val s.pos.toNat + 1),
                     engine := .idle, done := true, err := 1#4, donePend := true } ∧
        t.pos.toNat = s.pos.toNat + 5 * fullWindows s.source.len.val s.pos.toNat)

/-- 40_locate.md R140, R134: whatever the device answers, a LOCATE that completes with OK leaves POS at the first match at or after
its start, never a later one; a match that straddles a window boundary is not missed. -/
def Obligations.LocateReturnsTheFirstMatch : Prop :=
  ∀ s t : State, s.busy = true → exec .locate s = .next t → t.engine = .idle → t.err = 0#4 →
    s.source.firstSync s.pos.toNat t.pos.toNat

/-- 40_locate.md R135, R136: the first window whose read is Short or answered by Err ends the scan with IOFailure and POS at that
window's start. Windows 0 to `j - 1` were read and hold no match. -/
def Obligations.LocateStopsAtAFailedRead : Prop :=
  ∀ (s : State) (j : Nat), s.allAnswered →
    (∀ m, m < j → s.pos.toNat + 5 * m + 9 ≤ s.source.len.val ∧ ¬ s.source.errRead (s.reads + m) ∧
      ∀ p, p < 8 → s.source.syncAt (s.pos.toNat + 5 * m + p) = false) →
    (s.source.len.val < s.pos.toNat + 5 * j + 9 ∨ s.source.errRead (s.reads + j)) →
      ∃ t, exec .locate s = .next t ∧
        t = { s with pos := BitVec.ofNat 64 (s.pos.toNat + 5 * j), wbuf := t.wbuf, ws := t.ws, reads := s.reads + (j + 1),
                     engine := .idle, done := true, err := 1#4, donePend := true }

/-- 40_locate.md R142: fewer than 9 bytes at the start: IOFailure, POS stays, exactly one read. -/
def Obligations.LocateFailsWithoutAFullWindow : Prop :=
  ∀ s : State, ¬ s.source.silentRead s.reads → s.source.len.val < s.pos.toNat + 9 →
    ∃ t, exec .locate s = .next t ∧
      t = { s with wbuf := t.wbuf, ws := t.ws, reads := s.reads + 1, engine := .idle, done := true, err := 1#4,
                   donePend := true }

/-- 40_locate.md R143, 70_reset_and_hazards.md R281: LOCATE always completes when every read is answered, within the bound on its
reads. -/
def Obligations.LocateCompletesWithinTheReadBound : Prop :=
  ∀ s : State, s.allAnswered →
    ∃ t, exec .locate s = .next t ∧ t.engine = .idle ∧ t.done = true ∧ s.reads + 1 ≤ t.reads ∧
      t.reads ≤ s.reads + ((s.source.len.val - s.pos.toNat - 9) / 5 + 2)

/-- 40_locate.md R144: a LOCATE at a position that already holds a match, with 9 bytes there, returns the same POS after one read. -/
def Obligations.LocateAtAMatchStays : Prop :=
  ∀ s : State, s.nextReadGood → s.pos.toNat + 9 ≤ s.source.len.val → s.source.syncAt s.pos.toNat = true →
    ∃ t, exec .locate s = .next t ∧
      t = { s with wbuf := t.wbuf, ws := t.ws, reads := s.reads + 1, engine := .idle, done := true, err := 0#4,
                   donePend := true }

/-- 40_locate.md R133, R137, R138: whatever LOCATE does, it writes only POS, the completion bookkeeping, its hidden scan state and
the model's read records; it completes with OK or IOFailure, never SyncNotFound. -/
def Obligations.LocateFrame : Prop :=
  ∀ s t : State, exec .locate s = .next t →
    t = { s with pos := t.pos, wbuf := t.wbuf, ws := t.ws, reads := t.reads, stalled := t.stalled, engine := t.engine,
                 done := t.done, err := t.err, donePend := t.donePend } ∧
    (s.busy = true → t.engine = .idle → t.err = 0#4 ∨ t.err = 1#4)

/-! ### Completion of every command -/

/-- 60_exceptions.md R240, 70_reset_and_hazards.md R283: given that every read is answered, every command completes, and its
completion writes the bookkeeping. -/
def Obligations.EveryCommandCompletes : Prop :=
  ∀ (i : Instr) (s : State), s.allAnswered →
    ∃ t, exec i s = .next t ∧ t.busy = false ∧ t.done = true ∧ t.donePend = true ∧
      t.err ∈ [0#4, 1#4, 3#4, 5#4, 6#4]

/-- 70_reset_and_hazards.md R282: a read that is never answered leaves the engine with BUSY = 1 for ever, nothing visible changed, and
no failure code: the one read of PEEK, and the read of any window `j` of LOCATE, after `j` windows that were read without a match. -/
def Obligations.UnansweredReadHangsTheEngine : Prop :=
  ∀ (s : State) (a : BitVec 64), s.stalled = false → s.turns = [] →
    (s.engine = .run (encode .peek) a → s.source.silentRead s.reads →
      ∃ t, step s = .next t ∧ t.busy = true ∧ t.visible = s.visible ∧ t.reads = s.reads + 1 ∧ step t = .next t) ∧
    (∀ j, s.engine = .run (encode .locate) a →
      (∀ m, m < j → s.pos.toNat + 5 * m + 9 ≤ s.source.len.val ∧ ¬ s.source.silentRead (s.reads + m) ∧
        ¬ s.source.errRead (s.reads + m) ∧ ∀ p, p < 8 → s.source.syncAt (s.pos.toNat + 5 * m + p) = false) →
      s.source.silentRead (s.reads + j) →
        ∃ t, step s = .next t ∧ t.busy = true ∧ t.visible = s.visible ∧ t.reads = s.reads + (j + 1) ∧ step t = .next t)

/-! ### The whole machine -/

/-- 10_state.md R27, R35, R36, R38, 60_exceptions.md R238: the invariant is kept by every step, from every state that has it. -/
def Obligations.EveryStepKeepsTheInvariant : Prop :=
  ∀ s t : State, s.Inv → step s = .next t → t.Inv

/-- The invariant holds right after reset. -/
def Obligations.ResetHasTheInvariant : Prop :=
  State.reset.Inv

/-- 10_state.md R43: the reset values the spec gives. -/
def Obligations.ResetValues : Prop :=
  State.reset.readReg .id = 0x41445453#32 ∧ State.reset.ie = false ∧ State.reset.busy = false ∧
  State.reset.done = false ∧ State.reset.resValid = false ∧ State.reset.err = 0#4 ∧ State.reset.donePend = false ∧
  State.reset.argLo = 0#32 ∧ State.reset.argHi = 0#32 ∧ State.reset.pos = 0#64 ∧ State.reset.hdrPos = 0#64 ∧
  State.reset.hdr.f0 = 0#32 ∧ State.reset.hdr.f1 = 0#32 ∧ State.reset.engine = .idle ∧ State.reset.irq = false

/-- 70_reset_and_hazards.md R270, R271: `rst`, from any state and any running command, puts every register at its reset value
without a completion, and leaves the byte source. -/
def Obligations.RstAbandonsTheCommand : Prop :=
  ∀ (s : State) (rest : List Turn), s.turns = .rst :: rest →
    ∃ t, step s = .next t ∧ t.visible = State.reset.visible ∧ t.engine = .idle ∧ t.stalled = false ∧ t.turns = rest ∧
      t.source = s.source

/-- 20_memory.md R61, R68: no command, no host access and no reset changes the byte source or any byte of it; only attaching one
does. 70_reset_and_hazards.md R273, R279: from the acceptance of the first LOCATE or PEEK on, no step at all changes it, a reset
in between or not (log 13). -/
def Obligations.OnlyAttachingChangesTheSource : Prop :=
  ∀ s t : State, step s = .next t →
    ((∀ len cells errDraws silentDraws, s.turns.head? ≠ some (.attach len cells errDraws silentDraws)) →
      t.source = s.source ∧ ∀ a, t.source.byteAt a = s.source.byteAt a) ∧
    (s.sourceInUse = true → t.sourceInUse = true ∧ t.source = s.source) ∧
    (∀ a, s.engine = .idle → t.engine = .run (encode .locate) a ∨ t.engine = .run (encode .peek) a → t.sourceInUse = true)

/-- 42_position_and_control.md R216: NOP, SEEK_ABS, SEEK_REL and ADVANCE make no source read, and do the same on any byte source. -/
def Obligations.PositionCommandsReadNoSource : Prop :=
  ∀ (i : Instr) (s t : State) (src : Source) (k : Nat), i = .nop ∨ i = .seekAbs ∨ i = .seekRel ∨ i = .advance →
    exec i s = .next t →
      t.reads = s.reads ∧ exec i { s with source := src, reads := k } = .next { t with source := src, reads := k }

/-- 30_encoding.md R93: NOP, LOCATE, PEEK and ADVANCE do not depend on ARG: neither the registers nor the copy made at acceptance. -/
def Obligations.OnlySeeksReadTheArgument : Prop :=
  ∀ (i : Instr) (s t : State) (c : Word) (a b : BitVec 64) (lo hi : Word),
    i = .nop ∨ i = .locate ∨ i = .peek ∨ i = .advance → s.engine = .run c a → exec i s = .next t →
      ∃ t', exec i { s with argLo := lo, argHi := hi, engine := .run c b } = .next t' ∧
        t'.pos = t.pos ∧ t'.hdrPos = t.hdrPos ∧ t'.hdr = t.hdr ∧ t'.resValid = t.resValid ∧ t'.err = t.err ∧
        t'.done = t.done ∧ t'.busy = t.busy ∧ t'.reads = t.reads

/-- 10_state.md R42: while a command runs, POS, HDR_POS, HDR_F0, HDR_F1 and RES_VALID hold their values: a step that leaves BUSY at 1
changes none of them. -/
def Obligations.RegistersFrozenWhileBusy : Prop :=
  ∀ s t : State, step s = .next t → t.busy = true →
    t.pos = s.pos ∧ t.hdrPos = s.hdrPos ∧ t.hdr = s.hdr ∧ t.resValid = s.resValid

/-- 10_state.md R35: the results change only by a PEEK or a reset: a step that changes them is a reset, or the engine's turn that
completes a PEEK. -/
def Obligations.ResultsChangeOnlyByPeekOrReset : Prop :=
  ∀ s t : State, step s = .next t →
    (t.hdrPos ≠ s.hdrPos ∨ t.hdr ≠ s.hdr ∨ t.resValid ≠ s.resValid) →
      s.turns.head? = some .rst ∨
      ((s.turns = [] ∨ s.turns.head? = some .engine) ∧ s.stalled = false ∧ (∃ a, s.engine = .run 0x00000004#32 a) ∧
        t.engine = .idle ∧ t.done = true)

/-- 42_position_and_control.md R219: SEEK_ABS, SEEK_REL, LOCATE and ADVANCE are the only commands that change POS; besides the engine's
turn that completes one of them only a reset does. -/
def Obligations.PositionChangesOnlyByFourCommands : Prop :=
  ∀ s t : State, step s = .next t → t.pos ≠ s.pos →
    s.turns.head? = some .rst ∨
    ((s.turns = [] ∨ s.turns.head? = some .engine) ∧ s.stalled = false ∧ t.engine = .idle ∧ t.done = true ∧
      ∃ c a, s.engine = .run c a ∧ (c = 0x00000001#32 ∨ c = 0x00000002#32 ∨ c = 0x00000003#32 ∨ c = 0x00000005#32))

/-! ### The register window -/

/-- 10_state.md R25, R27, R28: the fields of the words of STATUS, CTRL and INT; their reserved bits read 0. -/
def Obligations.StatusWordHoldsTheFlags : Prop :=
  ∀ s : State,
    s.statusWord.toNat = s.busy.toNat + 2 * s.done.toNat + 4 * s.resValid.toNat + 16 * s.err.toNat ∧
    s.ctrlWord.toNat = s.ie.toNat ∧ s.intWord.toNat = s.donePend.toNat

/-- 10_state.md R21, R24, R25, R26, R28, R29, R30, R32: what an aligned 32-bit read of the window delivers, register by register, with nothing
else changed. -/
def Obligations.BusReadsDeliverTheRegisters : Prop :=
  ∀ (s : State) (rest : List Turn) (off : BitVec 8) (v : Word), s.turns = .bus (.read 32 off) :: rest →
    ((off = 0x00#8 ∧ v = 0x41445453#32) ∨ (off = 0x04#8 ∧ v.toNat = s.ie.toNat) ∨ (off = 0x08#8 ∧ v = 0#32) ∨
     (off = 0x0C#8 ∧ v = s.statusWord) ∨ (off = 0x10#8 ∧ v.toNat = s.donePend.toNat) ∨ (off = 0x14#8 ∧ v = s.argLo) ∨
     (off = 0x18#8 ∧ v = s.argHi) ∨ (off = 0x1C#8 ∧ v.toNat = s.pos.toNat % 2 ^ 32) ∨
     (off = 0x20#8 ∧ v.toNat = s.pos.toNat / 2 ^ 32) ∨ (off = 0x24#8 ∧ v.toNat = s.hdrPos.toNat % 2 ^ 32) ∨
     (off = 0x28#8 ∧ v.toNat = s.hdrPos.toNat / 2 ^ 32) ∨ (off = 0x2C#8 ∧ v = s.hdr.f0) ∨ (off = 0x30#8 ∧ v = s.hdr.f1)) →
      step s = .next { s with turns := rest, rdata := v }

/-- 10_state.md R23: the reserved offsets 0x34 to 0xFC read as 0, and a write there, as one to a read-only register, is ignored. -/
def Obligations.ReservedAndReadOnlyOffsets : Prop :=
  ∀ (s : State) (rest : List Turn) (off : BitVec 8) (v : Word), off.toNat % 4 = 0 →
    (0x34 ≤ off.toNat → s.turns = .bus (.read 32 off) :: rest → step s = .next { s with turns := rest, rdata := 0#32 }) ∧
    (0x34 ≤ off.toNat ∨ off.toNat = 0x00 ∨ off.toNat = 0x0C ∨ (0x1C ≤ off.toNat ∧ off.toNat ≤ 0x30) →
      s.turns = .bus (.write 32 off v) :: rest → step s = .next { s with turns := rest })

/-- 10_state.md R22: an access that is not 32 bits wide, or not at a multiple of 4, is refused; no other access is. -/
def Obligations.OnlyAlignedWordAccesses : Prop :=
  ∀ (s : State) (rest : List Turn) (w : Nat) (off : BitVec 8) (v : Word),
    (s.turns = .bus (.read w off) :: rest →
      (step s = .refused .badAccess ↔ w ≠ 32 ∨ off.toNat % 4 ≠ 0)) ∧
    (s.turns = .bus (.write w off v) :: rest →
      (step s = .refused .badAccess ↔ w ≠ 32 ∨ off.toNat % 4 ≠ 0))

/-- 10_state.md R28: INT is write-1-to-clear: a write with bit 0 = 1 clears DONE_PEND, one with bit 0 = 0 leaves it. -/
def Obligations.IntIsWriteOneToClear : Prop :=
  ∀ (s : State) (rest : List Turn) (v : Word), s.turns = .bus (.write 32 0x10#8 v) :: rest →
    (v.toNat % 2 = 1 → step s = .next { s with turns := rest, donePend := false }) ∧
    (v.toNat % 2 = 0 → step s = .next { s with turns := rest })

/-- 10_state.md R25, R44, 60_exceptions.md R245: writing CTRL sets IE from bit 0 and nothing else; `irq` is the level DONE_PEND AND IE,
so it follows IE at once and DONE_PEND stays. -/
def Obligations.IrqFollowsTheEnable : Prop :=
  ∀ (s : State) (rest : List Turn) (v : Word), s.turns = .bus (.write 32 0x04#8 v) :: rest →
    ∃ t, step s = .next t ∧ t = { s with turns := rest, ie := t.ie } ∧ t.ie.toNat = v.toNat % 2 ∧
      (t.irq = true ↔ s.donePend = true ∧ v.toNat % 2 = 1)

/-- 10_state.md R41: a CMD write while BUSY = 1 is dropped; otherwise the word is taken with a copy of ARG = {ARG_HI, ARG_LO}, DONE
and ERR are cleared, and nothing else changes but the model's own record that the byte source is in use. -/
def Obligations.CmdWriteIsTakenOrDropped : Prop :=
  ∀ (s : State) (rest : List Turn) (c : Word), s.turns = .bus (.write 32 0x08#8 c) :: rest →
    (s.busy = true → step s = .next { s with turns := rest }) ∧
    (s.busy = false → ∃ arg : BitVec 64, arg.toNat = s.argHi.toNat * 2 ^ 32 + s.argLo.toNat ∧
      ∃ t, step s = .next t ∧ t = { s with turns := rest, engine := .run c arg, done := false, err := 0#4,
                                           sourceInUse := t.sourceInUse })

/-- 10_state.md R29: ARG_LO and ARG_HI hold all 32 bits, and writing one changes nothing else: not the copy of a running command. -/
def Obligations.ArgWritesLeaveTheRunningCommand : Prop :=
  ∀ (s : State) (rest : List Turn) (v : Word),
    (s.turns = .bus (.write 32 0x14#8 v) :: rest → step s = .next { s with turns := rest, argLo := v }) ∧
    (s.turns = .bus (.write 32 0x18#8 v) :: rest → step s = .next { s with turns := rest, argHi := v })

/-- 60_exceptions.md R246: in the order "clear, then complete", DONE_PEND is 1 afterwards, whatever the command that completes. -/
def Obligations.CompletionWinsOverTheClear : Prop :=
  ∀ (s : State) (rest : List Turn) (c : Word) (a : BitVec 64),
    s.turns = .bus (.write 32 0x10#8 1#32) :: .engine :: rest → s.engine = .run c a → s.stalled = false → s.allAnswered →
      ∃ t u, step s = .next t ∧ t.donePend = false ∧ step t = .next u ∧ u.donePend = true ∧ u.busy = false

/-- 70_reset_and_hazards.md R273, R279 (log 13): a byte source is attached as given while none is in use, whatever runs, with every
byte below L reading as the last cell given for it; once a LOCATE or PEEK was accepted, attaching is refused; and one longer than
2^64 faults. In a state with the invariant the source is in use while a LOCATE or PEEK runs and once a read was made. -/
def Obligations.AttachingTheSource : Prop :=
  ∀ (s : State) (rest : List Turn) (len : Nat) (cells : List Host.Cell) (e q : Draws),
    s.turns = .attach len cells e q :: rest →
      (len ≤ 2 ^ 64 → s.sourceInUse = false →
        ∃ t, step s = .next t ∧ t = { s with turns := rest, source := t.source } ∧ t.source.len.val = len ∧
          t.source.errDraws = e ∧ t.source.silentDraws = q ∧ t.source.wf = true ∧
          (∀ a b, a < len → cells.findRev? (fun c => c.1 = a) = some (a, b) → t.source.byteAt a = b) ∧
          (∀ a, cells.findRev? (fun c => c.1 = a) = none → t.source.byteAt a = 0#8)) ∧
      (len ≤ 2 ^ 64 → s.sourceInUse = true → step s = .refused .sourceChanged) ∧
      (len ≤ 2 ^ 64 → s.Inv →
        (∃ a, s.engine = .run (encode .locate) a ∨ s.engine = .run (encode .peek) a) ∨ s.reads ≠ 0 →
          step s = .refused .sourceChanged) ∧
      (2 ^ 64 < len → step s = .fault .sourceTooLong)

/-! ### The host assembly -/

/-- 30_encoding.md R110: what the host's lines do on an idle block with nothing scheduled: `wr`, `rd`, `wait`, `b.err` (log 11), `b`,
labels, `b.eq` on a field that was read (`FieldName.place` says where a field stands), and `halt`. -/
def Obligations.HostLinesActOnTheWindow : Prop :=
  ∀ (s : State), s.engine = .idle → s.turns = [] →
    (∀ r v, s.agent.prog[s.agent.line]? = some (.wr r v) →
      step s = .next { s.writeReg r v with agent := { s.agent with line := s.agent.line + 1 } }) ∧
    (∀ r, s.agent.prog[s.agent.line]? = some (.rd r) →
      ∃ t, step s = .next t ∧
        t = { s with rdata := s.readReg r, agent := { s.agent with line := s.agent.line + 1, seen := t.agent.seen } } ∧
        ∀ q, lastRead q t.agent.seen = if q = r then some (s.readReg r) else lastRead q s.agent.seen) ∧
    (s.agent.prog[s.agent.line]? = some .wait →
      ∃ t, step s = .next t ∧
        t = { s with rdata := s.statusWord, agent := { s.agent with line := s.agent.line + 1, seen := t.agent.seen } } ∧
        ∀ q, lastRead q t.agent.seen = if q = .status then some s.statusWord else lastRead q s.agent.seen) ∧
    (∀ l n, findLabel l s.agent.prog = some n →
      s.agent.prog[s.agent.line]? = some (.b l) ∨ (s.agent.prog[s.agent.line]? = some (.bErr l) ∧ s.err ≠ 0#4) →
      step s = .next { s with agent := { s.agent with line := n } }) ∧
    (∀ l, s.agent.prog[s.agent.line]? = some (.label l) ∨ (s.agent.prog[s.agent.line]? = some (.bErr l) ∧ s.err = 0#4) →
      step s = .next { s with agent := { s.agent with line := s.agent.line + 1 } }) ∧
    (∀ f imm l v, s.agent.prog[s.agent.line]? = some (.bEq f imm l) → lastRead f.place.1 s.agent.seen = some v →
      (v.toNat / 2 ^ f.place.2.1 % 2 ^ f.place.2.2 = imm.toNat → ∀ n, findLabel l s.agent.prog = some n →
        step s = .next { s with agent := { s.agent with line := n } }) ∧
      (v.toNat / 2 ^ f.place.2.1 % 2 ^ f.place.2.2 ≠ imm.toNat →
        step s = .next { s with agent := { s.agent with line := s.agent.line + 1 } })) ∧
    (s.agent.prog[s.agent.line]? = some .halt → step s = .next s)

/-- 30_encoding.md R110: `wait` repeats while BUSY = 1, with a read of STATUS each time. -/
def Obligations.HostWaitRepeatsWhileBusy : Prop :=
  ∀ (s : State) (rest : List Turn), s.busy = true → s.turns = .host :: rest →
    s.agent.prog[s.agent.line]? = some .wait →
      ∃ t, step s = .next t ∧
        t = { s with turns := rest, rdata := s.statusWord, agent := { s.agent with seen := t.agent.seen } } ∧
        ∀ q, lastRead q t.agent.seen = if q = .status then some s.statusWord else lastRead q s.agent.seen

/-- 30_encoding.md R111: the two halves that `seek.rel v` writes are the 64-bit two's-complement value of `v`, for every `v` in
range, and then the command word of SEEK_REL; `seek.abs v` likewise. -/
def Obligations.SeekPseudoInstructionsWriteTheOperand : Prop :=
  (∀ v : Int, -2 ^ 63 ≤ v → v < 2 ^ 63 →
    ∃ lo hi : Word, Pseudo.expand (.seekRel v) = [.wr .argLo lo, .wr .argHi hi, .wr .cmd 2#32, .wait] ∧
      (hi ++ lo : BitVec 64).toInt = v) ∧
  (∀ v : BitVec 64, ∃ lo hi : Word,
    Pseudo.expand (.seekAbs v) = [.wr .argLo lo, .wr .argHi hi, .wr .cmd 1#32, .wait] ∧ (hi ++ lo : BitVec 64) = v)

/-- 30_encoding.md R111, 42_position_and_control.md R222, 70_reset_and_hazards.md R274: the expansions of the other
pseudo-instructions, the lines of the walk program, with label 0 for `loop` and label 1 for `stop` (log 11), and the boot order. -/
def Obligations.PseudoInstructionsAndTheWalkExpand : Prop :=
  Pseudo.expand .nop = [.wr .cmd 0#32, .wait] ∧ Pseudo.expand .locate = [.wr .cmd 3#32, .wait] ∧
  Pseudo.expand .peek = [.wr .cmd 4#32, .wait] ∧ Pseudo.expand .advance = [.wr .cmd 5#32, .wait] ∧
  Pseudo.expand .ack = [.wr .int 1#32] ∧
  Pseudo.expand .result = [.rd .hdrPosLo, .rd .hdrPosHi, .rd .hdrF0, .rd .hdrF1] ∧
  (∀ start : BitVec 64, ∃ lo hi : Word, (hi ++ lo : BitVec 64) = start ∧
    walkProgram start =
      [.wr .argLo lo, .wr .argHi hi, .wr .cmd 1#32, .wait, .wr .cmd 3#32, .wait, .bErr 1,
       .label 0, .wr .cmd 4#32, .wait, .bErr 1, .rd .hdrPosLo, .rd .hdrPosHi, .rd .hdrF0, .rd .hdrF1,
       .wr .cmd 5#32, .wait, .bErr 1, .b 0, .label 1, .rd .status, .halt]) ∧
  (∀ start : BitVec 64, bootProgram false start = walkProgram start ∧
    bootProgram true start = .wr .ctrl 1#32 :: walkProgram start)
end

