-- ==== Sys2Proof/Laws/State.lean ====
section
/-! SUPPORT. Beside State: one lemma per field per named update, true by rfl, so that no later proof unfolds a record update. -/

namespace Sys2Proof.Machine

@[simp] theorem State.setPos_ie (s : State) (p : Pos) : (s.setPos p).ie = s.ie := rfl
@[simp] theorem State.setPos_done (s : State) (p : Pos) : (s.setPos p).done = s.done := rfl
@[simp] theorem State.setPos_resValid (s : State) (p : Pos) : (s.setPos p).resValid = s.resValid := rfl
@[simp] theorem State.setPos_err (s : State) (p : Pos) : (s.setPos p).err = s.err := rfl
@[simp] theorem State.setPos_donePend (s : State) (p : Pos) : (s.setPos p).donePend = s.donePend := rfl
@[simp] theorem State.setPos_argLo (s : State) (p : Pos) : (s.setPos p).argLo = s.argLo := rfl
@[simp] theorem State.setPos_argHi (s : State) (p : Pos) : (s.setPos p).argHi = s.argHi := rfl
@[simp] theorem State.setPos_pos (s : State) (p : Pos) : (s.setPos p).pos = p := rfl
@[simp] theorem State.setPos_hdrPos (s : State) (p : Pos) : (s.setPos p).hdrPos = s.hdrPos := rfl
@[simp] theorem State.setPos_hdr (s : State) (p : Pos) : (s.setPos p).hdr = s.hdr := rfl
@[simp] theorem State.setPos_engine (s : State) (p : Pos) : (s.setPos p).engine = s.engine := rfl
@[simp] theorem State.setPos_wbuf (s : State) (p : Pos) : (s.setPos p).wbuf = s.wbuf := rfl
@[simp] theorem State.setPos_ws (s : State) (p : Pos) : (s.setPos p).ws = s.ws := rfl
@[simp] theorem State.setPos_hbuf (s : State) (p : Pos) : (s.setPos p).hbuf = s.hbuf := rfl
@[simp] theorem State.setPos_source (s : State) (p : Pos) : (s.setPos p).source = s.source := rfl
@[simp] theorem State.setPos_sourceInUse (s : State) (p : Pos) : (s.setPos p).sourceInUse = s.sourceInUse := rfl
@[simp] theorem State.setPos_reads (s : State) (p : Pos) : (s.setPos p).reads = s.reads := rfl
@[simp] theorem State.setPos_stalled (s : State) (p : Pos) : (s.setPos p).stalled = s.stalled := rfl
@[simp] theorem State.setPos_rdata (s : State) (p : Pos) : (s.setPos p).rdata = s.rdata := rfl
@[simp] theorem State.setPos_agent (s : State) (p : Pos) : (s.setPos p).agent = s.agent := rfl
@[simp] theorem State.setPos_turns (s : State) (p : Pos) : (s.setPos p).turns = s.turns := rfl

@[simp] theorem State.setWs_ie (s : State) (p : Pos) : (s.setWs p).ie = s.ie := rfl
@[simp] theorem State.setWs_done (s : State) (p : Pos) : (s.setWs p).done = s.done := rfl
@[simp] theorem State.setWs_resValid (s : State) (p : Pos) : (s.setWs p).resValid = s.resValid := rfl
@[simp] theorem State.setWs_err (s : State) (p : Pos) : (s.setWs p).err = s.err := rfl
@[simp] theorem State.setWs_donePend (s : State) (p : Pos) : (s.setWs p).donePend = s.donePend := rfl
@[simp] theorem State.setWs_argLo (s : State) (p : Pos) : (s.setWs p).argLo = s.argLo := rfl
@[simp] theorem State.setWs_argHi (s : State) (p : Pos) : (s.setWs p).argHi = s.argHi := rfl
@[simp] theorem State.setWs_pos (s : State) (p : Pos) : (s.setWs p).pos = s.pos := rfl
@[simp] theorem State.setWs_hdrPos (s : State) (p : Pos) : (s.setWs p).hdrPos = s.hdrPos := rfl
@[simp] theorem State.setWs_hdr (s : State) (p : Pos) : (s.setWs p).hdr = s.hdr := rfl
@[simp] theorem State.setWs_engine (s : State) (p : Pos) : (s.setWs p).engine = s.engine := rfl
@[simp] theorem State.setWs_wbuf (s : State) (p : Pos) : (s.setWs p).wbuf = s.wbuf := rfl
@[simp] theorem State.setWs_ws (s : State) (p : Pos) : (s.setWs p).ws = p := rfl
@[simp] theorem State.setWs_hbuf (s : State) (p : Pos) : (s.setWs p).hbuf = s.hbuf := rfl
@[simp] theorem State.setWs_source (s : State) (p : Pos) : (s.setWs p).source = s.source := rfl
@[simp] theorem State.setWs_sourceInUse (s : State) (p : Pos) : (s.setWs p).sourceInUse = s.sourceInUse := rfl
@[simp] theorem State.setWs_reads (s : State) (p : Pos) : (s.setWs p).reads = s.reads := rfl
@[simp] theorem State.setWs_stalled (s : State) (p : Pos) : (s.setWs p).stalled = s.stalled := rfl
@[simp] theorem State.setWs_rdata (s : State) (p : Pos) : (s.setWs p).rdata = s.rdata := rfl
@[simp] theorem State.setWs_agent (s : State) (p : Pos) : (s.setWs p).agent = s.agent := rfl
@[simp] theorem State.setWs_turns (s : State) (p : Pos) : (s.setWs p).turns = s.turns := rfl

@[simp] theorem State.setWbuf_ie (s : State) (w : Vector Byte 9) : (s.setWbuf w).ie = s.ie := rfl
@[simp] theorem State.setWbuf_done (s : State) (w : Vector Byte 9) : (s.setWbuf w).done = s.done := rfl
@[simp] theorem State.setWbuf_resValid (s : State) (w : Vector Byte 9) : (s.setWbuf w).resValid = s.resValid := rfl
@[simp] theorem State.setWbuf_err (s : State) (w : Vector Byte 9) : (s.setWbuf w).err = s.err := rfl
@[simp] theorem State.setWbuf_donePend (s : State) (w : Vector Byte 9) : (s.setWbuf w).donePend = s.donePend := rfl
@[simp] theorem State.setWbuf_argLo (s : State) (w : Vector Byte 9) : (s.setWbuf w).argLo = s.argLo := rfl
@[simp] theorem State.setWbuf_argHi (s : State) (w : Vector Byte 9) : (s.setWbuf w).argHi = s.argHi := rfl
@[simp] theorem State.setWbuf_pos (s : State) (w : Vector Byte 9) : (s.setWbuf w).pos = s.pos := rfl
@[simp] theorem State.setWbuf_hdrPos (s : State) (w : Vector Byte 9) : (s.setWbuf w).hdrPos = s.hdrPos := rfl
@[simp] theorem State.setWbuf_hdr (s : State) (w : Vector Byte 9) : (s.setWbuf w).hdr = s.hdr := rfl
@[simp] theorem State.setWbuf_engine (s : State) (w : Vector Byte 9) : (s.setWbuf w).engine = s.engine := rfl
@[simp] theorem State.setWbuf_wbuf (s : State) (w : Vector Byte 9) : (s.setWbuf w).wbuf = w := rfl
@[simp] theorem State.setWbuf_ws (s : State) (w : Vector Byte 9) : (s.setWbuf w).ws = s.ws := rfl
@[simp] theorem State.setWbuf_hbuf (s : State) (w : Vector Byte 9) : (s.setWbuf w).hbuf = s.hbuf := rfl
@[simp] theorem State.setWbuf_source (s : State) (w : Vector Byte 9) : (s.setWbuf w).source = s.source := rfl
@[simp] theorem State.setWbuf_sourceInUse (s : State) (w : Vector Byte 9) : (s.setWbuf w).sourceInUse = s.sourceInUse := rfl
@[simp] theorem State.setWbuf_reads (s : State) (w : Vector Byte 9) : (s.setWbuf w).reads = s.reads := rfl
@[simp] theorem State.setWbuf_stalled (s : State) (w : Vector Byte 9) : (s.setWbuf w).stalled = s.stalled := rfl
@[simp] theorem State.setWbuf_rdata (s : State) (w : Vector Byte 9) : (s.setWbuf w).rdata = s.rdata := rfl
@[simp] theorem State.setWbuf_agent (s : State) (w : Vector Byte 9) : (s.setWbuf w).agent = s.agent := rfl
@[simp] theorem State.setWbuf_turns (s : State) (w : Vector Byte 9) : (s.setWbuf w).turns = s.turns := rfl

@[simp] theorem State.setHbuf_ie (s : State) (b : Vector Byte 7) : (s.setHbuf b).ie = s.ie := rfl
@[simp] theorem State.setHbuf_done (s : State) (b : Vector Byte 7) : (s.setHbuf b).done = s.done := rfl
@[simp] theorem State.setHbuf_resValid (s : State) (b : Vector Byte 7) : (s.setHbuf b).resValid = s.resValid := rfl
@[simp] theorem State.setHbuf_err (s : State) (b : Vector Byte 7) : (s.setHbuf b).err = s.err := rfl
@[simp] theorem State.setHbuf_donePend (s : State) (b : Vector Byte 7) : (s.setHbuf b).donePend = s.donePend := rfl
@[simp] theorem State.setHbuf_argLo (s : State) (b : Vector Byte 7) : (s.setHbuf b).argLo = s.argLo := rfl
@[simp] theorem State.setHbuf_argHi (s : State) (b : Vector Byte 7) : (s.setHbuf b).argHi = s.argHi := rfl
@[simp] theorem State.setHbuf_pos (s : State) (b : Vector Byte 7) : (s.setHbuf b).pos = s.pos := rfl
@[simp] theorem State.setHbuf_hdrPos (s : State) (b : Vector Byte 7) : (s.setHbuf b).hdrPos = s.hdrPos := rfl
@[simp] theorem State.setHbuf_hdr (s : State) (b : Vector Byte 7) : (s.setHbuf b).hdr = s.hdr := rfl
@[simp] theorem State.setHbuf_engine (s : State) (b : Vector Byte 7) : (s.setHbuf b).engine = s.engine := rfl
@[simp] theorem State.setHbuf_wbuf (s : State) (b : Vector Byte 7) : (s.setHbuf b).wbuf = s.wbuf := rfl
@[simp] theorem State.setHbuf_ws (s : State) (b : Vector Byte 7) : (s.setHbuf b).ws = s.ws := rfl
@[simp] theorem State.setHbuf_hbuf (s : State) (b : Vector Byte 7) : (s.setHbuf b).hbuf = b := rfl
@[simp] theorem State.setHbuf_source (s : State) (b : Vector Byte 7) : (s.setHbuf b).source = s.source := rfl
@[simp] theorem State.setHbuf_sourceInUse (s : State) (b : Vector Byte 7) : (s.setHbuf b).sourceInUse = s.sourceInUse := rfl
@[simp] theorem State.setHbuf_reads (s : State) (b : Vector Byte 7) : (s.setHbuf b).reads = s.reads := rfl
@[simp] theorem State.setHbuf_stalled (s : State) (b : Vector Byte 7) : (s.setHbuf b).stalled = s.stalled := rfl
@[simp] theorem State.setHbuf_rdata (s : State) (b : Vector Byte 7) : (s.setHbuf b).rdata = s.rdata := rfl
@[simp] theorem State.setHbuf_agent (s : State) (b : Vector Byte 7) : (s.setHbuf b).agent = s.agent := rfl
@[simp] theorem State.setHbuf_turns (s : State) (b : Vector Byte 7) : (s.setHbuf b).turns = s.turns := rfl

@[simp] theorem State.countRead_ie (s : State) : (s.countRead).ie = s.ie := rfl
@[simp] theorem State.countRead_done (s : State) : (s.countRead).done = s.done := rfl
@[simp] theorem State.countRead_resValid (s : State) : (s.countRead).resValid = s.resValid := rfl
@[simp] theorem State.countRead_err (s : State) : (s.countRead).err = s.err := rfl
@[simp] theorem State.countRead_donePend (s : State) : (s.countRead).donePend = s.donePend := rfl
@[simp] theorem State.countRead_argLo (s : State) : (s.countRead).argLo = s.argLo := rfl
@[simp] theorem State.countRead_argHi (s : State) : (s.countRead).argHi = s.argHi := rfl
@[simp] theorem State.countRead_pos (s : State) : (s.countRead).pos = s.pos := rfl
@[simp] theorem State.countRead_hdrPos (s : State) : (s.countRead).hdrPos = s.hdrPos := rfl
@[simp] theorem State.countRead_hdr (s : State) : (s.countRead).hdr = s.hdr := rfl
@[simp] theorem State.countRead_engine (s : State) : (s.countRead).engine = s.engine := rfl
@[simp] theorem State.countRead_wbuf (s : State) : (s.countRead).wbuf = s.wbuf := rfl
@[simp] theorem State.countRead_ws (s : State) : (s.countRead).ws = s.ws := rfl
@[simp] theorem State.countRead_hbuf (s : State) : (s.countRead).hbuf = s.hbuf := rfl
@[simp] theorem State.countRead_source (s : State) : (s.countRead).source = s.source := rfl
@[simp] theorem State.countRead_sourceInUse (s : State) : (s.countRead).sourceInUse = s.sourceInUse := rfl
@[simp] theorem State.countRead_reads (s : State) : (s.countRead).reads = s.reads + 1 := rfl
@[simp] theorem State.countRead_stalled (s : State) : (s.countRead).stalled = s.stalled := rfl
@[simp] theorem State.countRead_rdata (s : State) : (s.countRead).rdata = s.rdata := rfl
@[simp] theorem State.countRead_agent (s : State) : (s.countRead).agent = s.agent := rfl
@[simp] theorem State.countRead_turns (s : State) : (s.countRead).turns = s.turns := rfl

@[simp] theorem State.stall_ie (s : State) : (s.stall).ie = s.ie := rfl
@[simp] theorem State.stall_done (s : State) : (s.stall).done = s.done := rfl
@[simp] theorem State.stall_resValid (s : State) : (s.stall).resValid = s.resValid := rfl
@[simp] theorem State.stall_err (s : State) : (s.stall).err = s.err := rfl
@[simp] theorem State.stall_donePend (s : State) : (s.stall).donePend = s.donePend := rfl
@[simp] theorem State.stall_argLo (s : State) : (s.stall).argLo = s.argLo := rfl
@[simp] theorem State.stall_argHi (s : State) : (s.stall).argHi = s.argHi := rfl
@[simp] theorem State.stall_pos (s : State) : (s.stall).pos = s.pos := rfl
@[simp] theorem State.stall_hdrPos (s : State) : (s.stall).hdrPos = s.hdrPos := rfl
@[simp] theorem State.stall_hdr (s : State) : (s.stall).hdr = s.hdr := rfl
@[simp] theorem State.stall_engine (s : State) : (s.stall).engine = s.engine := rfl
@[simp] theorem State.stall_wbuf (s : State) : (s.stall).wbuf = s.wbuf := rfl
@[simp] theorem State.stall_ws (s : State) : (s.stall).ws = s.ws := rfl
@[simp] theorem State.stall_hbuf (s : State) : (s.stall).hbuf = s.hbuf := rfl
@[simp] theorem State.stall_source (s : State) : (s.stall).source = s.source := rfl
@[simp] theorem State.stall_sourceInUse (s : State) : (s.stall).sourceInUse = s.sourceInUse := rfl
@[simp] theorem State.stall_reads (s : State) : (s.stall).reads = s.reads := rfl
@[simp] theorem State.stall_stalled (s : State) : (s.stall).stalled = true := rfl
@[simp] theorem State.stall_rdata (s : State) : (s.stall).rdata = s.rdata := rfl
@[simp] theorem State.stall_agent (s : State) : (s.stall).agent = s.agent := rfl
@[simp] theorem State.stall_turns (s : State) : (s.stall).turns = s.turns := rfl

@[simp] theorem State.dropScan_ie (s : State) : (s.dropScan).ie = s.ie := rfl
@[simp] theorem State.dropScan_done (s : State) : (s.dropScan).done = s.done := rfl
@[simp] theorem State.dropScan_resValid (s : State) : (s.dropScan).resValid = s.resValid := rfl
@[simp] theorem State.dropScan_err (s : State) : (s.dropScan).err = s.err := rfl
@[simp] theorem State.dropScan_donePend (s : State) : (s.dropScan).donePend = s.donePend := rfl
@[simp] theorem State.dropScan_argLo (s : State) : (s.dropScan).argLo = s.argLo := rfl
@[simp] theorem State.dropScan_argHi (s : State) : (s.dropScan).argHi = s.argHi := rfl
@[simp] theorem State.dropScan_pos (s : State) : (s.dropScan).pos = s.pos := rfl
@[simp] theorem State.dropScan_hdrPos (s : State) : (s.dropScan).hdrPos = s.hdrPos := rfl
@[simp] theorem State.dropScan_hdr (s : State) : (s.dropScan).hdr = s.hdr := rfl
@[simp] theorem State.dropScan_engine (s : State) : (s.dropScan).engine = s.engine := rfl
@[simp] theorem State.dropScan_wbuf (s : State) : (s.dropScan).wbuf = Config.wbufAfter s.reads := rfl
@[simp] theorem State.dropScan_ws (s : State) : (s.dropScan).ws = Config.wsAfter s.reads := rfl
@[simp] theorem State.dropScan_hbuf (s : State) : (s.dropScan).hbuf = s.hbuf := rfl
@[simp] theorem State.dropScan_source (s : State) : (s.dropScan).source = s.source := rfl
@[simp] theorem State.dropScan_sourceInUse (s : State) : (s.dropScan).sourceInUse = s.sourceInUse := rfl
@[simp] theorem State.dropScan_reads (s : State) : (s.dropScan).reads = s.reads := rfl
@[simp] theorem State.dropScan_stalled (s : State) : (s.dropScan).stalled = s.stalled := rfl
@[simp] theorem State.dropScan_rdata (s : State) : (s.dropScan).rdata = s.rdata := rfl
@[simp] theorem State.dropScan_agent (s : State) : (s.dropScan).agent = s.agent := rfl
@[simp] theorem State.dropScan_turns (s : State) : (s.dropScan).turns = s.turns := rfl

@[simp] theorem State.dropHbuf_ie (s : State) : (s.dropHbuf).ie = s.ie := rfl
@[simp] theorem State.dropHbuf_done (s : State) : (s.dropHbuf).done = s.done := rfl
@[simp] theorem State.dropHbuf_resValid (s : State) : (s.dropHbuf).resValid = s.resValid := rfl
@[simp] theorem State.dropHbuf_err (s : State) : (s.dropHbuf).err = s.err := rfl
@[simp] theorem State.dropHbuf_donePend (s : State) : (s.dropHbuf).donePend = s.donePend := rfl
@[simp] theorem State.dropHbuf_argLo (s : State) : (s.dropHbuf).argLo = s.argLo := rfl
@[simp] theorem State.dropHbuf_argHi (s : State) : (s.dropHbuf).argHi = s.argHi := rfl
@[simp] theorem State.dropHbuf_pos (s : State) : (s.dropHbuf).pos = s.pos := rfl
@[simp] theorem State.dropHbuf_hdrPos (s : State) : (s.dropHbuf).hdrPos = s.hdrPos := rfl
@[simp] theorem State.dropHbuf_hdr (s : State) : (s.dropHbuf).hdr = s.hdr := rfl
@[simp] theorem State.dropHbuf_engine (s : State) : (s.dropHbuf).engine = s.engine := rfl
@[simp] theorem State.dropHbuf_wbuf (s : State) : (s.dropHbuf).wbuf = s.wbuf := rfl
@[simp] theorem State.dropHbuf_ws (s : State) : (s.dropHbuf).ws = s.ws := rfl
@[simp] theorem State.dropHbuf_hbuf (s : State) : (s.dropHbuf).hbuf = Config.hbufAfter s.reads := rfl
@[simp] theorem State.dropHbuf_source (s : State) : (s.dropHbuf).source = s.source := rfl
@[simp] theorem State.dropHbuf_sourceInUse (s : State) : (s.dropHbuf).sourceInUse = s.sourceInUse := rfl
@[simp] theorem State.dropHbuf_reads (s : State) : (s.dropHbuf).reads = s.reads := rfl
@[simp] theorem State.dropHbuf_stalled (s : State) : (s.dropHbuf).stalled = s.stalled := rfl
@[simp] theorem State.dropHbuf_rdata (s : State) : (s.dropHbuf).rdata = s.rdata := rfl
@[simp] theorem State.dropHbuf_agent (s : State) : (s.dropHbuf).agent = s.agent := rfl
@[simp] theorem State.dropHbuf_turns (s : State) : (s.dropHbuf).turns = s.turns := rfl

@[simp] theorem State.setResult_ie (s : State) (p : Pos) (h : Header) : (s.setResult p h).ie = s.ie := rfl
@[simp] theorem State.setResult_done (s : State) (p : Pos) (h : Header) : (s.setResult p h).done = s.done := rfl
@[simp] theorem State.setResult_resValid (s : State) (p : Pos) (h : Header) : (s.setResult p h).resValid = true := rfl
@[simp] theorem State.setResult_err (s : State) (p : Pos) (h : Header) : (s.setResult p h).err = s.err := rfl
@[simp] theorem State.setResult_donePend (s : State) (p : Pos) (h : Header) : (s.setResult p h).donePend = s.donePend := rfl
@[simp] theorem State.setResult_argLo (s : State) (p : Pos) (h : Header) : (s.setResult p h).argLo = s.argLo := rfl
@[simp] theorem State.setResult_argHi (s : State) (p : Pos) (h : Header) : (s.setResult p h).argHi = s.argHi := rfl
@[simp] theorem State.setResult_pos (s : State) (p : Pos) (h : Header) : (s.setResult p h).pos = s.pos := rfl
@[simp] theorem State.setResult_hdrPos (s : State) (p : Pos) (h : Header) : (s.setResult p h).hdrPos = p := rfl
@[simp] theorem State.setResult_hdr (s : State) (p : Pos) (h : Header) : (s.setResult p h).hdr = h := rfl
@[simp] theorem State.setResult_engine (s : State) (p : Pos) (h : Header) : (s.setResult p h).engine = s.engine := rfl
@[simp] theorem State.setResult_wbuf (s : State) (p : Pos) (h : Header) : (s.setResult p h).wbuf = s.wbuf := rfl
@[simp] theorem State.setResult_ws (s : State) (p : Pos) (h : Header) : (s.setResult p h).ws = s.ws := rfl
@[simp] theorem State.setResult_hbuf (s : State) (p : Pos) (h : Header) : (s.setResult p h).hbuf = s.hbuf := rfl
@[simp] theorem State.setResult_source (s : State) (p : Pos) (h : Header) : (s.setResult p h).source = s.source := rfl
@[simp] theorem State.setResult_sourceInUse (s : State) (p : Pos) (h : Header) : (s.setResult p h).sourceInUse = s.sourceInUse := rfl
@[simp] theorem State.setResult_reads (s : State) (p : Pos) (h : Header) : (s.setResult p h).reads = s.reads := rfl
@[simp] theorem State.setResult_stalled (s : State) (p : Pos) (h : Header) : (s.setResult p h).stalled = s.stalled := rfl
@[simp] theorem State.setResult_rdata (s : State) (p : Pos) (h : Header) : (s.setResult p h).rdata = s.rdata := rfl
@[simp] theorem State.setResult_agent (s : State) (p : Pos) (h : Header) : (s.setResult p h).agent = s.agent := rfl
@[simp] theorem State.setResult_turns (s : State) (p : Pos) (h : Header) : (s.setResult p h).turns = s.turns := rfl

@[simp] theorem State.clearResult_ie (s : State) : (s.clearResult).ie = s.ie := rfl
@[simp] theorem State.clearResult_done (s : State) : (s.clearResult).done = s.done := rfl
@[simp] theorem State.clearResult_resValid (s : State) : (s.clearResult).resValid = false := rfl
@[simp] theorem State.clearResult_err (s : State) : (s.clearResult).err = s.err := rfl
@[simp] theorem State.clearResult_donePend (s : State) : (s.clearResult).donePend = s.donePend := rfl
@[simp] theorem State.clearResult_argLo (s : State) : (s.clearResult).argLo = s.argLo := rfl
@[simp] theorem State.clearResult_argHi (s : State) : (s.clearResult).argHi = s.argHi := rfl
@[simp] theorem State.clearResult_pos (s : State) : (s.clearResult).pos = s.pos := rfl
@[simp] theorem State.clearResult_hdrPos (s : State) : (s.clearResult).hdrPos = 0#64 := rfl
@[simp] theorem State.clearResult_hdr (s : State) : (s.clearResult).hdr = Header.zero := rfl
@[simp] theorem State.clearResult_engine (s : State) : (s.clearResult).engine = s.engine := rfl
@[simp] theorem State.clearResult_wbuf (s : State) : (s.clearResult).wbuf = s.wbuf := rfl
@[simp] theorem State.clearResult_ws (s : State) : (s.clearResult).ws = s.ws := rfl
@[simp] theorem State.clearResult_hbuf (s : State) : (s.clearResult).hbuf = s.hbuf := rfl
@[simp] theorem State.clearResult_source (s : State) : (s.clearResult).source = s.source := rfl
@[simp] theorem State.clearResult_sourceInUse (s : State) : (s.clearResult).sourceInUse = s.sourceInUse := rfl
@[simp] theorem State.clearResult_reads (s : State) : (s.clearResult).reads = s.reads := rfl
@[simp] theorem State.clearResult_stalled (s : State) : (s.clearResult).stalled = s.stalled := rfl
@[simp] theorem State.clearResult_rdata (s : State) : (s.clearResult).rdata = s.rdata := rfl
@[simp] theorem State.clearResult_agent (s : State) : (s.clearResult).agent = s.agent := rfl
@[simp] theorem State.clearResult_turns (s : State) : (s.clearResult).turns = s.turns := rfl

@[simp] theorem State.complete_ie (s : State) (c : StatusCode) : (s.complete c).ie = s.ie := rfl
@[simp] theorem State.complete_done (s : State) (c : StatusCode) : (s.complete c).done = true := rfl
@[simp] theorem State.complete_resValid (s : State) (c : StatusCode) : (s.complete c).resValid = s.resValid := rfl
@[simp] theorem State.complete_err (s : State) (c : StatusCode) : (s.complete c).err = c.bits := rfl
@[simp] theorem State.complete_donePend (s : State) (c : StatusCode) : (s.complete c).donePend = true := rfl
@[simp] theorem State.complete_argLo (s : State) (c : StatusCode) : (s.complete c).argLo = s.argLo := rfl
@[simp] theorem State.complete_argHi (s : State) (c : StatusCode) : (s.complete c).argHi = s.argHi := rfl
@[simp] theorem State.complete_pos (s : State) (c : StatusCode) : (s.complete c).pos = s.pos := rfl
@[simp] theorem State.complete_hdrPos (s : State) (c : StatusCode) : (s.complete c).hdrPos = s.hdrPos := rfl
@[simp] theorem State.complete_hdr (s : State) (c : StatusCode) : (s.complete c).hdr = s.hdr := rfl
@[simp] theorem State.complete_engine (s : State) (c : StatusCode) : (s.complete c).engine = .idle := rfl
@[simp] theorem State.complete_wbuf (s : State) (c : StatusCode) : (s.complete c).wbuf = s.wbuf := rfl
@[simp] theorem State.complete_ws (s : State) (c : StatusCode) : (s.complete c).ws = s.ws := rfl
@[simp] theorem State.complete_hbuf (s : State) (c : StatusCode) : (s.complete c).hbuf = s.hbuf := rfl
@[simp] theorem State.complete_source (s : State) (c : StatusCode) : (s.complete c).source = s.source := rfl
@[simp] theorem State.complete_sourceInUse (s : State) (c : StatusCode) : (s.complete c).sourceInUse = s.sourceInUse := rfl
@[simp] theorem State.complete_reads (s : State) (c : StatusCode) : (s.complete c).reads = s.reads := rfl
@[simp] theorem State.complete_stalled (s : State) (c : StatusCode) : (s.complete c).stalled = s.stalled := rfl
@[simp] theorem State.complete_rdata (s : State) (c : StatusCode) : (s.complete c).rdata = s.rdata := rfl
@[simp] theorem State.complete_agent (s : State) (c : StatusCode) : (s.complete c).agent = s.agent := rfl
@[simp] theorem State.complete_turns (s : State) (c : StatusCode) : (s.complete c).turns = s.turns := rfl

@[simp] theorem State.accept_ie (s : State) (c : Word) : (s.accept c).ie = s.ie := rfl
@[simp] theorem State.accept_done (s : State) (c : Word) : (s.accept c).done = false := rfl
@[simp] theorem State.accept_resValid (s : State) (c : Word) : (s.accept c).resValid = s.resValid := rfl
@[simp] theorem State.accept_err (s : State) (c : Word) : (s.accept c).err = 0#4 := rfl
@[simp] theorem State.accept_donePend (s : State) (c : Word) : (s.accept c).donePend = s.donePend := rfl
@[simp] theorem State.accept_argLo (s : State) (c : Word) : (s.accept c).argLo = s.argLo := rfl
@[simp] theorem State.accept_argHi (s : State) (c : Word) : (s.accept c).argHi = s.argHi := rfl
@[simp] theorem State.accept_pos (s : State) (c : Word) : (s.accept c).pos = s.pos := rfl
@[simp] theorem State.accept_hdrPos (s : State) (c : Word) : (s.accept c).hdrPos = s.hdrPos := rfl
@[simp] theorem State.accept_hdr (s : State) (c : Word) : (s.accept c).hdr = s.hdr := rfl
@[simp] theorem State.accept_engine (s : State) (c : Word) : (s.accept c).engine = .run c s.argReg := rfl
@[simp] theorem State.accept_wbuf (s : State) (c : Word) : (s.accept c).wbuf = s.wbuf := rfl
@[simp] theorem State.accept_ws (s : State) (c : Word) : (s.accept c).ws = s.ws := rfl
@[simp] theorem State.accept_hbuf (s : State) (c : Word) : (s.accept c).hbuf = s.hbuf := rfl
@[simp] theorem State.accept_source (s : State) (c : Word) : (s.accept c).source = s.source := rfl
@[simp] theorem State.accept_sourceInUse (s : State) (c : Word) : (s.accept c).sourceInUse = (s.sourceInUse || wordReadsSource c) := rfl
@[simp] theorem State.accept_reads (s : State) (c : Word) : (s.accept c).reads = s.reads := rfl
@[simp] theorem State.accept_stalled (s : State) (c : Word) : (s.accept c).stalled = s.stalled := rfl
@[simp] theorem State.accept_rdata (s : State) (c : Word) : (s.accept c).rdata = s.rdata := rfl
@[simp] theorem State.accept_agent (s : State) (c : Word) : (s.accept c).agent = s.agent := rfl
@[simp] theorem State.accept_turns (s : State) (c : Word) : (s.accept c).turns = s.turns := rfl

@[simp] theorem State.deliver_ie (s : State) (v : Word) : (s.deliver v).ie = s.ie := rfl
@[simp] theorem State.deliver_done (s : State) (v : Word) : (s.deliver v).done = s.done := rfl
@[simp] theorem State.deliver_resValid (s : State) (v : Word) : (s.deliver v).resValid = s.resValid := rfl
@[simp] theorem State.deliver_err (s : State) (v : Word) : (s.deliver v).err = s.err := rfl
@[simp] theorem State.deliver_donePend (s : State) (v : Word) : (s.deliver v).donePend = s.donePend := rfl
@[simp] theorem State.deliver_argLo (s : State) (v : Word) : (s.deliver v).argLo = s.argLo := rfl
@[simp] theorem State.deliver_argHi (s : State) (v : Word) : (s.deliver v).argHi = s.argHi := rfl
@[simp] theorem State.deliver_pos (s : State) (v : Word) : (s.deliver v).pos = s.pos := rfl
@[simp] theorem State.deliver_hdrPos (s : State) (v : Word) : (s.deliver v).hdrPos = s.hdrPos := rfl
@[simp] theorem State.deliver_hdr (s : State) (v : Word) : (s.deliver v).hdr = s.hdr := rfl
@[simp] theorem State.deliver_engine (s : State) (v : Word) : (s.deliver v).engine = s.engine := rfl
@[simp] theorem State.deliver_wbuf (s : State) (v : Word) : (s.deliver v).wbuf = s.wbuf := rfl
@[simp] theorem State.deliver_ws (s : State) (v : Word) : (s.deliver v).ws = s.ws := rfl
@[simp] theorem State.deliver_hbuf (s : State) (v : Word) : (s.deliver v).hbuf = s.hbuf := rfl
@[simp] theorem State.deliver_source (s : State) (v : Word) : (s.deliver v).source = s.source := rfl
@[simp] theorem State.deliver_sourceInUse (s : State) (v : Word) : (s.deliver v).sourceInUse = s.sourceInUse := rfl
@[simp] theorem State.deliver_reads (s : State) (v : Word) : (s.deliver v).reads = s.reads := rfl
@[simp] theorem State.deliver_stalled (s : State) (v : Word) : (s.deliver v).stalled = s.stalled := rfl
@[simp] theorem State.deliver_rdata (s : State) (v : Word) : (s.deliver v).rdata = v := rfl
@[simp] theorem State.deliver_agent (s : State) (v : Word) : (s.deliver v).agent = s.agent := rfl
@[simp] theorem State.deliver_turns (s : State) (v : Word) : (s.deliver v).turns = s.turns := rfl

@[simp] theorem State.gotoLine_ie (s : State) (n : Nat) : (s.gotoLine n).ie = s.ie := rfl
@[simp] theorem State.gotoLine_done (s : State) (n : Nat) : (s.gotoLine n).done = s.done := rfl
@[simp] theorem State.gotoLine_resValid (s : State) (n : Nat) : (s.gotoLine n).resValid = s.resValid := rfl
@[simp] theorem State.gotoLine_err (s : State) (n : Nat) : (s.gotoLine n).err = s.err := rfl
@[simp] theorem State.gotoLine_donePend (s : State) (n : Nat) : (s.gotoLine n).donePend = s.donePend := rfl
@[simp] theorem State.gotoLine_argLo (s : State) (n : Nat) : (s.gotoLine n).argLo = s.argLo := rfl
@[simp] theorem State.gotoLine_argHi (s : State) (n : Nat) : (s.gotoLine n).argHi = s.argHi := rfl
@[simp] theorem State.gotoLine_pos (s : State) (n : Nat) : (s.gotoLine n).pos = s.pos := rfl
@[simp] theorem State.gotoLine_hdrPos (s : State) (n : Nat) : (s.gotoLine n).hdrPos = s.hdrPos := rfl
@[simp] theorem State.gotoLine_hdr (s : State) (n : Nat) : (s.gotoLine n).hdr = s.hdr := rfl
@[simp] theorem State.gotoLine_engine (s : State) (n : Nat) : (s.gotoLine n).engine = s.engine := rfl
@[simp] theorem State.gotoLine_wbuf (s : State) (n : Nat) : (s.gotoLine n).wbuf = s.wbuf := rfl
@[simp] theorem State.gotoLine_ws (s : State) (n : Nat) : (s.gotoLine n).ws = s.ws := rfl
@[simp] theorem State.gotoLine_hbuf (s : State) (n : Nat) : (s.gotoLine n).hbuf = s.hbuf := rfl
@[simp] theorem State.gotoLine_source (s : State) (n : Nat) : (s.gotoLine n).source = s.source := rfl
@[simp] theorem State.gotoLine_sourceInUse (s : State) (n : Nat) : (s.gotoLine n).sourceInUse = s.sourceInUse := rfl
@[simp] theorem State.gotoLine_reads (s : State) (n : Nat) : (s.gotoLine n).reads = s.reads := rfl
@[simp] theorem State.gotoLine_stalled (s : State) (n : Nat) : (s.gotoLine n).stalled = s.stalled := rfl
@[simp] theorem State.gotoLine_rdata (s : State) (n : Nat) : (s.gotoLine n).rdata = s.rdata := rfl
@[simp] theorem State.gotoLine_agent (s : State) (n : Nat) : (s.gotoLine n).agent = { s.agent with line := n } := rfl
@[simp] theorem State.gotoLine_turns (s : State) (n : Nat) : (s.gotoLine n).turns = s.turns := rfl

@[simp] theorem State.popTurn_ie (s : State) : (s.popTurn).ie = s.ie := rfl
@[simp] theorem State.popTurn_done (s : State) : (s.popTurn).done = s.done := rfl
@[simp] theorem State.popTurn_resValid (s : State) : (s.popTurn).resValid = s.resValid := rfl
@[simp] theorem State.popTurn_err (s : State) : (s.popTurn).err = s.err := rfl
@[simp] theorem State.popTurn_donePend (s : State) : (s.popTurn).donePend = s.donePend := rfl
@[simp] theorem State.popTurn_argLo (s : State) : (s.popTurn).argLo = s.argLo := rfl
@[simp] theorem State.popTurn_argHi (s : State) : (s.popTurn).argHi = s.argHi := rfl
@[simp] theorem State.popTurn_pos (s : State) : (s.popTurn).pos = s.pos := rfl
@[simp] theorem State.popTurn_hdrPos (s : State) : (s.popTurn).hdrPos = s.hdrPos := rfl
@[simp] theorem State.popTurn_hdr (s : State) : (s.popTurn).hdr = s.hdr := rfl
@[simp] theorem State.popTurn_engine (s : State) : (s.popTurn).engine = s.engine := rfl
@[simp] theorem State.popTurn_wbuf (s : State) : (s.popTurn).wbuf = s.wbuf := rfl
@[simp] theorem State.popTurn_ws (s : State) : (s.popTurn).ws = s.ws := rfl
@[simp] theorem State.popTurn_hbuf (s : State) : (s.popTurn).hbuf = s.hbuf := rfl
@[simp] theorem State.popTurn_source (s : State) : (s.popTurn).source = s.source := rfl
@[simp] theorem State.popTurn_sourceInUse (s : State) : (s.popTurn).sourceInUse = s.sourceInUse := rfl
@[simp] theorem State.popTurn_reads (s : State) : (s.popTurn).reads = s.reads := rfl
@[simp] theorem State.popTurn_stalled (s : State) : (s.popTurn).stalled = s.stalled := rfl
@[simp] theorem State.popTurn_rdata (s : State) : (s.popTurn).rdata = s.rdata := rfl
@[simp] theorem State.popTurn_agent (s : State) : (s.popTurn).agent = s.agent := rfl
@[simp] theorem State.popTurn_turns (s : State) : (s.popTurn).turns = s.turns.tail := rfl

@[simp] theorem State.afterRst_ie (s : State) : (s.afterRst).ie = State.reset.ie := rfl
@[simp] theorem State.afterRst_done (s : State) : (s.afterRst).done = State.reset.done := rfl
@[simp] theorem State.afterRst_resValid (s : State) : (s.afterRst).resValid = State.reset.resValid := rfl
@[simp] theorem State.afterRst_err (s : State) : (s.afterRst).err = State.reset.err := rfl
@[simp] theorem State.afterRst_donePend (s : State) : (s.afterRst).donePend = State.reset.donePend := rfl
@[simp] theorem State.afterRst_argLo (s : State) : (s.afterRst).argLo = State.reset.argLo := rfl
@[simp] theorem State.afterRst_argHi (s : State) : (s.afterRst).argHi = State.reset.argHi := rfl
@[simp] theorem State.afterRst_pos (s : State) : (s.afterRst).pos = State.reset.pos := rfl
@[simp] theorem State.afterRst_hdrPos (s : State) : (s.afterRst).hdrPos = State.reset.hdrPos := rfl
@[simp] theorem State.afterRst_hdr (s : State) : (s.afterRst).hdr = State.reset.hdr := rfl
@[simp] theorem State.afterRst_engine (s : State) : (s.afterRst).engine = State.reset.engine := rfl
@[simp] theorem State.afterRst_wbuf (s : State) : (s.afterRst).wbuf = State.reset.wbuf := rfl
@[simp] theorem State.afterRst_ws (s : State) : (s.afterRst).ws = State.reset.ws := rfl
@[simp] theorem State.afterRst_hbuf (s : State) : (s.afterRst).hbuf = State.reset.hbuf := rfl
@[simp] theorem State.afterRst_source (s : State) : (s.afterRst).source = s.source := rfl
@[simp] theorem State.afterRst_sourceInUse (s : State) : (s.afterRst).sourceInUse = s.sourceInUse := rfl
@[simp] theorem State.afterRst_reads (s : State) : (s.afterRst).reads = s.reads := rfl
@[simp] theorem State.afterRst_stalled (s : State) : (s.afterRst).stalled = State.reset.stalled := rfl
@[simp] theorem State.afterRst_rdata (s : State) : (s.afterRst).rdata = s.rdata := rfl
@[simp] theorem State.afterRst_agent (s : State) : (s.afterRst).agent = s.agent := rfl
@[simp] theorem State.afterRst_turns (s : State) : (s.afterRst).turns = s.turns := rfl

@[simp] theorem State.setSource_ie (s : State) (len : Fin 18446744073709551617) (cells : List Host.Cell) (errDraws silentDraws : Draws) : (s.setSource len cells errDraws silentDraws).ie = s.ie := rfl
@[simp] theorem State.setSource_done (s : State) (len : Fin 18446744073709551617) (cells : List Host.Cell) (errDraws silentDraws : Draws) : (s.setSource len cells errDraws silentDraws).done = s.done := rfl
@[simp] theorem State.setSource_resValid (s : State) (len : Fin 18446744073709551617) (cells : List Host.Cell) (errDraws silentDraws : Draws) : (s.setSource len cells errDraws silentDraws).resValid = s.resValid := rfl
@[simp] theorem State.setSource_err (s : State) (len : Fin 18446744073709551617) (cells : List Host.Cell) (errDraws silentDraws : Draws) : (s.setSource len cells errDraws silentDraws).err = s.err := rfl
@[simp] theorem State.setSource_donePend (s : State) (len : Fin 18446744073709551617) (cells : List Host.Cell) (errDraws silentDraws : Draws) : (s.setSource len cells errDraws silentDraws).donePend = s.donePend := rfl
@[simp] theorem State.setSource_argLo (s : State) (len : Fin 18446744073709551617) (cells : List Host.Cell) (errDraws silentDraws : Draws) : (s.setSource len cells errDraws silentDraws).argLo = s.argLo := rfl
@[simp] theorem State.setSource_argHi (s : State) (len : Fin 18446744073709551617) (cells : List Host.Cell) (errDraws silentDraws : Draws) : (s.setSource len cells errDraws silentDraws).argHi = s.argHi := rfl
@[simp] theorem State.setSource_pos (s : State) (len : Fin 18446744073709551617) (cells : List Host.Cell) (errDraws silentDraws : Draws) : (s.setSource len cells errDraws silentDraws).pos = s.pos := rfl
@[simp] theorem State.setSource_hdrPos (s : State) (len : Fin 18446744073709551617) (cells : List Host.Cell) (errDraws silentDraws : Draws) : (s.setSource len cells errDraws silentDraws).hdrPos = s.hdrPos := rfl
@[simp] theorem State.setSource_hdr (s : State) (len : Fin 18446744073709551617) (cells : List Host.Cell) (errDraws silentDraws : Draws) : (s.setSource len cells errDraws silentDraws).hdr = s.hdr := rfl
@[simp] theorem State.setSource_engine (s : State) (len : Fin 18446744073709551617) (cells : List Host.Cell) (errDraws silentDraws : Draws) : (s.setSource len cells errDraws silentDraws).engine = s.engine := rfl
@[simp] theorem State.setSource_wbuf (s : State) (len : Fin 18446744073709551617) (cells : List Host.Cell) (errDraws silentDraws : Draws) : (s.setSource len cells errDraws silentDraws).wbuf = s.wbuf := rfl
@[simp] theorem State.setSource_ws (s : State) (len : Fin 18446744073709551617) (cells : List Host.Cell) (errDraws silentDraws : Draws) : (s.setSource len cells errDraws silentDraws).ws = s.ws := rfl
@[simp] theorem State.setSource_hbuf (s : State) (len : Fin 18446744073709551617) (cells : List Host.Cell) (errDraws silentDraws : Draws) : (s.setSource len cells errDraws silentDraws).hbuf = s.hbuf := rfl
@[simp] theorem State.setSource_source (s : State) (len : Fin 18446744073709551617) (cells : List Host.Cell) (errDraws silentDraws : Draws) : (s.setSource len cells errDraws silentDraws).source = { len := len, cells := placeCells len.val cells, errDraws := errDraws, silentDraws := silentDraws } := rfl
@[simp] theorem State.setSource_sourceInUse (s : State) (len : Fin 18446744073709551617) (cells : List Host.Cell) (errDraws silentDraws : Draws) : (s.setSource len cells errDraws silentDraws).sourceInUse = s.sourceInUse := rfl
@[simp] theorem State.setSource_reads (s : State) (len : Fin 18446744073709551617) (cells : List Host.Cell) (errDraws silentDraws : Draws) : (s.setSource len cells errDraws silentDraws).reads = s.reads := rfl
@[simp] theorem State.setSource_stalled (s : State) (len : Fin 18446744073709551617) (cells : List Host.Cell) (errDraws silentDraws : Draws) : (s.setSource len cells errDraws silentDraws).stalled = s.stalled := rfl
@[simp] theorem State.setSource_rdata (s : State) (len : Fin 18446744073709551617) (cells : List Host.Cell) (errDraws silentDraws : Draws) : (s.setSource len cells errDraws silentDraws).rdata = s.rdata := rfl
@[simp] theorem State.setSource_agent (s : State) (len : Fin 18446744073709551617) (cells : List Host.Cell) (errDraws silentDraws : Draws) : (s.setSource len cells errDraws silentDraws).agent = s.agent := rfl
@[simp] theorem State.setSource_turns (s : State) (len : Fin 18446744073709551617) (cells : List Host.Cell) (errDraws silentDraws : Draws) : (s.setSource len cells errDraws silentDraws).turns = s.turns := rfl

end Sys2Proof.Machine
end

