-- ==== Sys2Proof/Laws/Memory.lean ====
section
/-! SUPPORT. The laws of the byte source's cells: reading after writing, and the canonical form, which every operation keeps. -/

namespace Sys2Proof.Machine

/-- A list in canonical form from `lo` on lists no address below `lo`. -/
theorem cellRead_below {a lo len : Nat} {m : List Host.Cell} (h : cellsWfFrom lo len m = true) (ha : a < lo) :
    cellRead a m = cellDefault := by
  induction m generalizing lo with
  | nil => rfl
  | cons c rest ih =>
    obtain ⟨k, v⟩ := c
    simp only [cellsWfFrom, Bool.and_eq_true, decide_eq_true_eq] at h
    have hk : k ≠ a := by omega
    simpa [cellRead, hk] using ih h.2 (by omega)

/-- A canonical list stays canonical from any lower address on. -/
theorem cellsWfFrom_mono {lo lo' len : Nat} {m : List Host.Cell} (h : cellsWfFrom lo len m = true) (hl : lo' ≤ lo) :
    cellsWfFrom lo' len m = true := by
  cases m with
  | nil => rfl
  | cons c rest =>
    obtain ⟨k, v⟩ := c
    simp only [cellsWfFrom, Bool.and_eq_true, decide_eq_true_eq] at h ⊢
    exact ⟨⟨⟨by omega, h.1.1.2⟩, h.1.2⟩, h.2⟩

/-- Writing keeps the canonical form. -/
theorem cellWrite_wf {a lo len : Nat} {b : Byte} {m : List Host.Cell} (h : cellsWfFrom lo len m = true) (hlo : lo ≤ a)
    (hlen : a < len) : cellsWfFrom lo len (cellWrite a b m) = true := by
  induction m generalizing lo with
  | nil =>
    by_cases hb : b = cellDefault <;> simp [cellWrite, cellsWfFrom, hb, hlo, hlen]
  | cons c rest ih =>
    obtain ⟨k, v⟩ := c
    have h' := h
    simp only [cellsWfFrom, Bool.and_eq_true, decide_eq_true_eq] at h'
    obtain ⟨⟨⟨h1, h2⟩, h3⟩, h4⟩ := h'
    simp only [cellWrite]
    split
    · split
      · exact h
      · rename_i hak hb
        simp only [cellsWfFrom, Bool.and_eq_true, decide_eq_true_eq]
        exact ⟨⟨⟨hlo, hlen⟩, hb⟩, ⟨⟨⟨by omega, h2⟩, h3⟩, h4⟩⟩
    · split
      · split
        · exact cellsWfFrom_mono h4 (by omega)
        · rename_i hak hkk hb
          subst hkk
          simp only [cellsWfFrom, Bool.and_eq_true, decide_eq_true_eq]
          exact ⟨⟨⟨hlo, hlen⟩, hb⟩, h4⟩
      · simp only [cellsWfFrom, Bool.and_eq_true, decide_eq_true_eq]
        exact ⟨⟨⟨h1, h2⟩, h3⟩, ih h4 (by omega)⟩

/-- Reading back the byte written. -/
theorem cellRead_cellWrite_same {a lo len : Nat} {b : Byte} {m : List Host.Cell} (h : cellsWfFrom lo len m = true) :
    cellRead a (cellWrite a b m) = b := by
  induction m generalizing lo with
  | nil =>
    by_cases hb : b = cellDefault <;> simp [cellWrite, cellRead, hb]
  | cons c rest ih =>
    obtain ⟨k, v⟩ := c
    have h' := h
    simp only [cellsWfFrom, Bool.and_eq_true, decide_eq_true_eq] at h'
    simp only [cellWrite]
    split
    · rename_i hak
      split
      · rename_i hb
        have hne : k ≠ a := by omega
        simp only [cellRead, if_neg hne, hb]
        exact cellRead_below h'.2 (by omega)
      · simp [cellRead]
    · split
      · rename_i hak hkk
        split
        · rename_i hb
          rw [hb]
          exact cellRead_below h'.2 (by omega)
        · simp [cellRead]
      · rename_i hak hkk
        have hne : k ≠ a := fun e => hkk e.symm
        simp only [cellRead, if_neg hne]
        exact ih h'.2

/-- A write leaves every other address alone. -/
theorem cellRead_cellWrite_other {a c : Nat} {b : Byte} {m : List Host.Cell} (hne : c ≠ a) :
    cellRead c (cellWrite a b m) = cellRead c m := by
  induction m with
  | nil =>
    have : a ≠ c := fun e => hne e.symm
    by_cases hb : b = cellDefault <;> simp [cellWrite, cellRead, hb, this]
  | cons e rest ih =>
    obtain ⟨k, v⟩ := e
    have hac : a ≠ c := fun e => hne e.symm
    simp only [cellWrite]
    split
    · split
      · rfl
      · simp [cellRead, hac]
    · split
      · rename_i hak hkk
        subst hkk
        split <;> simp [cellRead, hac]
      · by_cases hk : k = c <;> simp [cellRead, hk, ih]

/-- What the platform attaches is in canonical form. -/
theorem placeCells_wf (len : Nat) (cells : List Host.Cell) : cellsWfFrom 0 len (placeCells len cells) = true := by
  have go : ∀ (cs m : List Host.Cell), cellsWfFrom 0 len m = true →
      cellsWfFrom 0 len (cs.foldl (fun m c => if c.1 < len then cellWrite c.1 c.2 m else m) m) = true := by
    intro cs
    induction cs with
    | nil => intro m h; exact h
    | cons c rest ih =>
      intro m h
      simp only [List.foldl_cons]
      split
      · rename_i hc
        exact ih _ (cellWrite_wf h (Nat.zero_le _) hc)
      · exact ih _ h
  exact go cells [] rfl

/-- The empty source is in canonical form. -/
theorem Source.empty_wf : Source.empty.wf = true := by decide

/-- Equal canonical contents are equal data: two canonical lists that read the same at every address are the same list. -/
theorem cells_ext {lo len : Nat} {m n : List Host.Cell} (hm : cellsWfFrom lo len m = true) (hn : cellsWfFrom lo len n = true)
    (h : ∀ a, cellRead a m = cellRead a n) : m = n := by
  induction m generalizing n lo with
  | nil =>
    cases n with
    | nil => rfl
    | cons c rest =>
      obtain ⟨k, v⟩ := c
      simp only [cellsWfFrom, Bool.and_eq_true, decide_eq_true_eq] at hn
      exact absurd (by simpa [cellRead] using (h k).symm) hn.1.2
  | cons c rest ih =>
    obtain ⟨k, v⟩ := c
    have hm' := hm
    simp only [cellsWfFrom, Bool.and_eq_true, decide_eq_true_eq] at hm'
    cases n with
    | nil => exact absurd (by simpa [cellRead] using h k) hm'.1.2
    | cons d rest' =>
      obtain ⟨k', v'⟩ := d
      have hn' := hn
      simp only [cellsWfFrom, Bool.and_eq_true, decide_eq_true_eq] at hn'
      have hkk : k = k' := by
        rcases Nat.lt_trichotomy k k' with hlt | heq | hgt
        · have h1 := h k
          rw [cellRead_below (lo := k') (len := len) (a := k) (m := (k', v') :: rest')
            (by simp only [cellsWfFrom, Bool.and_eq_true, decide_eq_true_eq]; exact ⟨⟨⟨Nat.le_refl _, hn'.1.1.2⟩, hn'.1.2⟩, hn'.2⟩) hlt] at h1
          exact absurd (by simpa [cellRead] using h1) hm'.1.2
        · exact heq
        · have h1 := h k'
          rw [cellRead_below (lo := k) (len := len) (a := k') (m := (k, v) :: rest)
            (by simp only [cellsWfFrom, Bool.and_eq_true, decide_eq_true_eq]; exact ⟨⟨⟨Nat.le_refl _, hm'.1.1.2⟩, hm'.1.2⟩, hm'.2⟩) hgt] at h1
          exact absurd (by simpa [cellRead] using h1.symm) hn'.1.2
      subst hkk
      have hvv : v = v' := by simpa [cellRead] using h k
      subst hvv
      have hrest : rest = rest' := by
        refine ih hm'.2 hn'.2 (fun a => ?_)
        by_cases hka : k = a
        · rw [cellRead_below hm'.2 (by omega), cellRead_below hn'.2 (by omega)]
        · simpa [cellRead, hka] using h a
      rw [hrest]

end Sys2Proof.Machine
end

