-- ==== Sys2Proof/Laws/Ops.lean ====
section
/-! SUPPORT. One lemma per shared operation that says once what it can do: the source read, the header fields as arithmetic on the
bytes, the checks of PEEK, the sync predicate, the position arithmetic. -/

namespace Sys2Proof.Machine

/-! ### The source read (20_memory.md R62) -/

/-- The bytes a read delivers. -/
@[simp] theorem Source.bytes_getElem (src : Source) (a n i : Nat) (h : i < n) :
    (src.bytes a n)[i] = src.byteAt (a + i) := by
  simp [Source.bytes]

/-- When a read is answered with its bytes, which, and that all of them are in the source. -/
theorem Source.answer_ok_iff {src : Source} {k a n : Nat} {w : Vector Byte n} :
    src.answer k a n = .ok w ↔
      ¬ src.silentRead k ∧ a + n ≤ src.len.val ∧ ¬ src.errRead k ∧ w = src.bytes a n := by
  unfold Source.answer
  by_cases h1 : src.silentRead k <;> by_cases h2 : src.len.val < a + n <;> by_cases h3 : src.errRead k <;>
    simp [h1, h2, h3, eq_comm]
  all_goals omega

/-- A read is never answered exactly when the source says so. -/
theorem Source.answer_silent_iff {src : Source} {k a n : Nat} :
    src.answer k a n = .silent ↔ src.silentRead k := by
  unfold Source.answer
  by_cases h1 : src.silentRead k <;> by_cases h2 : src.len.val < a + n <;> by_cases h3 : src.errRead k <;>
    simp [h1, h2, h3]

/-- When a read ends in `Short`. -/
theorem Source.answer_short_iff {src : Source} {k a n : Nat} :
    src.answer k a n = .short ↔ ¬ src.silentRead k ∧ src.len.val < a + n := by
  unfold Source.answer
  by_cases h1 : src.silentRead k <;> by_cases h2 : src.len.val < a + n <;> by_cases h3 : src.errRead k <;>
    simp [h1, h2, h3]

/-- When a read ends in `Err`. -/
theorem Source.answer_err_iff {src : Source} {k a n : Nat} :
    src.answer k a n = .err ↔ ¬ src.silentRead k ∧ a + n ≤ src.len.val ∧ src.errRead k := by
  unfold Source.answer
  by_cases h1 : src.silentRead k <;> by_cases h2 : src.len.val < a + n <;> by_cases h3 : src.errRead k <;>
    simp [h1, h2, h3]
  all_goals omega

/-- The length of a source is at most `2^64` (00_scope.md R7). -/
theorem Source.len_le (src : Source) : src.len.val ≤ 18446744073709551616 :=
  Nat.le_of_lt_succ src.len.isLt

/-! ### Bits as arithmetic -/

/-- A field of a word, as a number. -/
theorem extract_toNat {w : Nat} (x : BitVec w) (start n : Nat) :
    (x.extractLsb' start n).toNat = x.toNat / 2 ^ start % 2 ^ n := by
  simp [BitVec.extractLsb'_toNat, Nat.shiftRight_eq_div_pow]

/-- A concatenation, as a number. -/
theorem append_toNat {m n : Nat} (x : BitVec m) (y : BitVec n) :
    (x ++ y).toNat = x.toNat * 2 ^ n + y.toNat := by
  rw [BitVec.toNat_append, Nat.shiftLeft_eq, ← Nat.shiftLeft_eq, Nat.shiftLeft_add_eq_or_of_lt y.isLt]

/-- `H` as a number (20_memory.md R64). -/
theorem headerWord_toNat (b : Vector Byte 7) :
    (headerWord b).toNat =
      b[0].toNat * 2 ^ 48 + b[1].toNat * 2 ^ 40 + b[2].toNat * 2 ^ 32 + b[3].toNat * 2 ^ 24 + b[4].toNat * 2 ^ 16 +
        b[5].toNat * 2 ^ 8 + b[6].toNat := by
  simp only [headerWord, append_toNat]
  omega

/-- The bytes of a word, put together again, are the word (20_memory.md R64). -/
theorem headerWord_headerByte (H : BitVec 56) (b : Vector Byte 7) (h : ∀ i : Fin 7, b[i.val] = headerByte H i) :
    headerWord b = H := by
  apply BitVec.eq_of_toNat_eq
  rw [headerWord_toNat]
  have e0 : b[0].toNat = H.toNat / 2 ^ 48 % 2 ^ 8 := (congrArg BitVec.toNat (h 0)).trans (extract_toNat ..)
  have e1 : b[1].toNat = H.toNat / 2 ^ 40 % 2 ^ 8 := (congrArg BitVec.toNat (h 1)).trans (extract_toNat ..)
  have e2 : b[2].toNat = H.toNat / 2 ^ 32 % 2 ^ 8 := (congrArg BitVec.toNat (h 2)).trans (extract_toNat ..)
  have e3 : b[3].toNat = H.toNat / 2 ^ 24 % 2 ^ 8 := (congrArg BitVec.toNat (h 3)).trans (extract_toNat ..)
  have e4 : b[4].toNat = H.toNat / 2 ^ 16 % 2 ^ 8 := (congrArg BitVec.toNat (h 4)).trans (extract_toNat ..)
  have e5 : b[5].toNat = H.toNat / 2 ^ 8 % 2 ^ 8 := (congrArg BitVec.toNat (h 5)).trans (extract_toNat ..)
  have e6 : b[6].toNat = H.toNat / 2 ^ 0 % 2 ^ 8 := (congrArg BitVec.toNat (h 6)).trans (extract_toNat ..)
  have := H.isLt
  rw [e0, e1, e2, e3, e4, e5, e6]
  omega

/-! ### The fields PEEK reads, as arithmetic on the header bytes (30_encoding.md R97, "byte bits") -/

theorem extract_syncword (b : Vector Byte 7) :
    (extractFields (headerWord b)).syncword.toNat = b[0].toNat * 16 + b[1].toNat / 16 := by
  have := b[0].isLt; have := b[1].isLt; have := b[2].isLt; have := b[3].isLt; have := b[4].isLt; have := b[5].isLt
  have := b[6].isLt
  simp only [extractFields, extract_toNat, headerWord_toNat]
  omega

theorem extract_mpegVersion (b : Vector Byte 7) :
    (extractFields (headerWord b)).mpegVersion.toNat = b[1].toNat / 8 % 2 := by
  have := b[2].isLt; have := b[3].isLt; have := b[4].isLt; have := b[5].isLt; have := b[6].isLt
  simp only [extractFields, extract_toNat, headerWord_toNat]
  omega

theorem extract_protAbsent (b : Vector Byte 7) :
    (extractFields (headerWord b)).protAbsent.toNat = b[1].toNat % 2 := by
  have := b[2].isLt; have := b[3].isLt; have := b[4].isLt; have := b[5].isLt; have := b[6].isLt
  simp only [extractFields, extract_toNat, headerWord_toNat]
  omega

theorem extract_aotCode (b : Vector Byte 7) :
    (extractFields (headerWord b)).aotCode.toNat = b[2].toNat / 64 := by
  have := b[2].isLt; have := b[3].isLt; have := b[4].isLt; have := b[5].isLt; have := b[6].isLt
  simp only [extractFields, extract_toNat, headerWord_toNat]
  omega

theorem extract_sfi (b : Vector Byte 7) :
    (extractFields (headerWord b)).sfi.toNat = b[2].toNat / 4 % 16 := by
  have := b[3].isLt; have := b[4].isLt; have := b[5].isLt; have := b[6].isLt
  simp only [extractFields, extract_toNat, headerWord_toNat]
  omega

theorem extract_chcfg (b : Vector Byte 7) :
    (extractFields (headerWord b)).chcfg.toNat = b[2].toNat % 2 * 4 + b[3].toNat / 64 := by
  have := b[3].isLt; have := b[4].isLt; have := b[5].isLt; have := b[6].isLt
  simp only [extractFields, extract_toNat, headerWord_toNat]
  omega

theorem extract_frameLength (b : Vector Byte 7) :
    (extractFields (headerWord b)).frameLength.toNat =
      b[3].toNat % 4 * 2048 + b[4].toNat * 8 + b[5].toNat / 32 := by
  have := b[4].isLt; have := b[5].isLt; have := b[6].isLt
  simp only [extractFields, extract_toNat, headerWord_toNat]
  omega

/-! ### The checks of PEEK (41_peek.md R163 to R166) -/

/-- The code map is total, and a code's variant number is the code (30_encoding.md R103). -/
theorem aotMap_some (c : BitVec 2) : ∃ t, aotMap c = some t ∧ t.number = c.setWidth 6 := by
  revert c
  decide

/-- A one-bit value is 0 or 1. -/
theorem bit_cases (x : BitVec 1) : x = 0#1 ∨ x = 1#1 := by
  revert x
  decide

/-- What the checks answer: the code of the first one that fails, or the kept fields. -/
theorem checkHeader_cases (r : RawHeader) :
    (r.syncword ≠ 0xFFF#12 ∧ checkHeader r = .error .invalidSyncword) ∨
    (r.syncword = 0xFFF#12 ∧ r.frameLength.toNat < minFrameLength r.protAbsent ∧
      checkHeader r = .error .invalidFrameLength) ∨
    (∃ h, r.syncword = 0xFFF#12 ∧ minFrameLength r.protAbsent ≤ r.frameLength.toNat ∧ checkHeader r = .ok h ∧
      h = { syncword := r.syncword, mpegVersion := r.mpegVersion, protAbsent := r.protAbsent,
            aot := r.aotCode.setWidth 6, sfi := r.sfi, chcfg := r.chcfg, frameLength := r.frameLength }) := by
  obtain ⟨t, ht, hn⟩ := aotMap_some r.aotCode
  by_cases hs : r.syncword = 0xFFF#12
  · by_cases hf : r.frameLength.toNat < minFrameLength r.protAbsent
    · exact .inr (.inl ⟨hs, hf, by simp [checkHeader, hs, ht, hf]⟩)
    · refine .inr (.inr ⟨keptFields r t, hs, by omega, ?_, ?_⟩)
      · simp [checkHeader, hs, ht, hf]
      · simp [keptFields, hn]
  · exact .inl ⟨hs, by simp [checkHeader, hs]⟩

/-- Every 2-bit code as an AOT field is one of the four variants produced. -/
theorem aotField_mem (c : BitVec 2) : c.setWidth 6 ∈ [0#6, 1#6, 2#6, 3#6] := by
  revert c
  decide

/-- An accepted header has the properties of 10_state.md R35. -/
theorem checkHeader_accepted {r : RawHeader} {h : Header} (hc : checkHeader r = .ok h) : h.accepted := by
  rcases checkHeader_cases r with ⟨_, he⟩ | ⟨_, _, he⟩ | ⟨h', hs, hf, he, hh⟩
  · rw [he] at hc; cases hc
  · rw [he] at hc; cases hc
  · rw [he] at hc
    cases hc
    subst hh
    refine ⟨hs, aotField_mem _, ?_, ?_⟩
    · intro hp
      simp only at hp
      simpa [minFrameLength, hp] using hf
    · intro hp
      simp only at hp
      simpa [minFrameLength, hp] using hf

/-! ### Positions (00_scope.md R9) -/

/-- `sint64` is the two's-complement value. -/
theorem sint64_eq_toInt (v : BitVec 64) : sint64 v = v.toInt := by
  have hm : v[63] = v.msb := by simp [BitVec.msb_eq_getLsbD_last]
  unfold sint64
  rw [hm, BitVec.toInt_eq_msb_cond]
  simp

/-- A position that passed the range check is held exactly. -/
theorem posOfInt_toNat {t : Int} (h : posInRange t) : ((posOfInt t).toNat : Int) = t := by
  obtain ⟨h0, h1⟩ := h
  simp only [posOfInt, BitVec.toNat_ofInt]
  omega

/-! ### The sync predicate (40_locate.md R131) -/

/-- The predicate tests exactly the twelve bits `0xFFF` (30_encoding.md R109). -/
theorem syncPair_iff (b0 b1 : Byte) : syncPair b0 b1 = true ↔ b0.toNat * 16 + b1.toNat / 16 = 4095 := by
  have h1 : ∀ b : Byte, ((b &&& 0xF0#8) == 0xF0#8) = true ↔ b.toNat / 16 = 15 := by decide
  have := b0.isLt
  have := b1.isLt
  simp only [syncPair, Bool.and_eq_true, h1, beq_iff_eq]
  constructor
  · rintro ⟨rfl, h⟩
    have : (0xFF#8 : BitVec 8).toNat = 255 := rfl
    omega
  · intro h
    refine ⟨BitVec.eq_of_toNat_eq ?_, by omega⟩
    have : (0xFF#8 : BitVec 8).toNat = 255 := rfl
    omega

/-- A match in a window read at `a` is a match on the source at `a + p`. -/
theorem windowMatch_bytes (src : Source) (a : Nat) (p : Fin 8) :
    windowMatch (src.bytes a 9) p = src.syncAt (a + p.val) := by
  simp [windowMatch, Source.syncAt, Nat.add_assoc]

/-- `firstMatch` finds the least matching position. -/
theorem firstMatch_some {w : Vector Byte 9} {p : Fin 8} (h : firstMatch w = some p) :
    windowMatch w p = true ∧ ∀ q : Fin 8, q < p → windowMatch w q = false := by
  unfold firstMatch at h
  constructor
  · simpa using List.find?_some h
  · intro q hq
    rw [List.find?_eq_some_iff_append] at h
    obtain ⟨_, as, bs, hab, hall⟩ := h
    have hmem : q ∈ as := by
      have key : ∀ (as bs : List (Fin 8)) , [0, 1, 2, 3, 4, 5, 6, 7] = as ++ p :: bs → q ∈ as := by
        intro as bs e
        have hlen : as.length < 8 := by
          have := congrArg List.length e
          simp at this
          omega
        have hp : ([0, 1, 2, 3, 4, 5, 6, 7] : List (Fin 8))[as.length]? = some p := by rw [e]; simp
        have hpv : p.val = as.length := by
          have : ∀ n : Nat, n < 8 → ∀ x : Fin 8, ([0, 1, 2, 3, 4, 5, 6, 7] : List (Fin 8))[n]? = some x → x.val = n := by
            decide
          exact this _ hlen _ hp
        have hqi : ([0, 1, 2, 3, 4, 5, 6, 7] : List (Fin 8))[q.val]? = some q := by
          have all : ∀ x : Fin 8, ([0, 1, 2, 3, 4, 5, 6, 7] : List (Fin 8))[x.val]? = some x := by decide
          exact all q
        rw [e, List.getElem?_append_left (by omega)] at hqi
        exact List.mem_of_getElem? hqi
      exact key as bs hab
    simpa using hall q hmem

/-- `firstMatch` answers none exactly when no position matches. -/
theorem firstMatch_none {w : Vector Byte 9} : firstMatch w = none ↔ ∀ p : Fin 8, windowMatch w p = false := by
  unfold firstMatch
  rw [List.find?_eq_none]
  constructor
  · intro h p
    have hm : p ∈ ([0, 1, 2, 3, 4, 5, 6, 7] : List (Fin 8)) := by revert p; decide
    simpa using h p hm
  · intro h p _
    simp [h p]

end Sys2Proof.Machine
end

