-- ==== Sys2Proof/Laws/Locate.lean ====
section
/-! SUPPORT. What LOCATE can do, said once: the window step, the scan by induction on its fuel, and the command. Every claim about
LOCATE follows from execLocate_cases without unfolding the scan. -/

namespace Sys2Proof.Machine

/-- Window number `m` of a scan from `start` was read and holds no match: read number `k + m` was answered with its 9 bytes, and
no tested pair start matches (40_locate.md R132). -/
structure QuietWindow (src : Source) (k start m : Nat) : Prop where
  answered : ¬ src.silentRead (k + m)
  inside   : start + 5 * m + 9 ≤ src.len.val
  noError  : ¬ src.errRead (k + m)
  noMatch  : ∀ p : Fin 8, src.syncAt (start + 5 * m + p.val) = false

/-- The state while a scan is at its window number `j`. -/
def scanning (s : State) (w : Vector Byte 9) (p : Pos) (j : Nat) : State :=
  { s with wbuf := w, ws := p, reads := s.reads + j }

/-- The state a LOCATE ends in: POS, the status code, and how many reads it made (40_locate.md R133). -/
def located (s : State) (p n : Nat) (c : StatusCode) : State :=
  { s with pos := BitVec.ofNat 64 p, wbuf := Config.wbufAfter (s.reads + n), ws := Config.wsAfter (s.reads + n),
           reads := s.reads + n, engine := .idle, done := true, err := c.bits, donePend := true }

/-- How one window step ends, by the answer to its read (40_locate.md R132). -/
theorem windowStep_cases (s : State) :
    (∃ p : Fin 8, ¬ s.source.silentRead s.reads ∧ s.ws.toNat + 9 ≤ s.source.len.val ∧ ¬ s.source.errRead s.reads ∧
      s.source.syncAt (s.ws.toNat + p.val) = true ∧
      (∀ q : Fin 8, q < p → s.source.syncAt (s.ws.toNat + q.val) = false) ∧
      windowStep s = .found (scanning s (s.source.bytes s.ws.toNat 9) s.ws 1) p) ∨
    (¬ s.source.silentRead s.reads ∧ (s.source.len.val < s.ws.toNat + 9 ∨ s.source.errRead s.reads) ∧
      windowStep s = .failed (scanning s s.wbuf s.ws 1)) ∨
    (s.source.silentRead s.reads ∧ windowStep s = .hung (scanning s s.wbuf s.ws 1).stall) ∨
    (QuietWindow s.source s.reads s.ws.toNat 0 ∧
      windowStep s = .again (scanning s (s.source.bytes s.ws.toNat 9) (s.ws + 5#64) 1)) := by
  rcases hm : s.memRead s.ws.toNat 9 with w | _ | _ | _
  · obtain ⟨h1, h2, h3, rfl⟩ := Source.answer_ok_iff.1 hm
    rcases hf : firstMatch (s.source.bytes s.ws.toNat 9) with _ | p
    · refine .inr (.inr (.inr ⟨⟨h1, h2, h3, fun p => ?_⟩, ?_⟩))
      · simpa [windowMatch_bytes] using firstMatch_none.1 hf p
      · simp [windowStep, hm, hf, State.countRead, State.setWbuf, State.setWs, scanning]
    · refine .inl ⟨p, h1, h2, h3, ?_, fun q hq => ?_, ?_⟩
      · simpa [windowMatch_bytes] using (firstMatch_some hf).1
      · simpa [windowMatch_bytes] using (firstMatch_some hf).2 q hq
      · simp [windowStep, hm, hf, State.countRead, State.setWbuf, scanning]
  · obtain ⟨h1, h2⟩ := Source.answer_short_iff.1 hm
    exact .inr (.inl ⟨h1, .inl h2, by simp [windowStep, hm, State.countRead, scanning]⟩)
  · obtain ⟨h1, _, h3⟩ := Source.answer_err_iff.1 hm
    exact .inr (.inl ⟨h1, .inr h3, by simp [windowStep, hm, State.countRead, scanning]⟩)
  · have h1 := Source.answer_silent_iff.1 hm
    exact .inr (.inr (.inl ⟨h1, by simp [windowStep, hm, State.countRead, scanning]⟩))

/-- The window start moves on exactly: a full read at `ws` leaves room (40_locate.md R143). -/
theorem ws_add_stride {src : Source} {p : Pos} (h : p.toNat + 9 ≤ src.len.val) : (p + 5#64).toNat = p.toNat + 5 := by
  have := src.len_le
  simp only [BitVec.toNat_add, BitVec.toNat_ofNat]
  omega

/-- How a scan ends: `j` windows without a match, then a window that ends it. -/
theorem scan_cases (n : Nat) (s : State) (hn : (s.source.len.val - s.ws.toNat) / 5 + 1 ≤ n) :
    ∃ (j : Nat) (w : Vector Byte 9) (p : Pos), p.toNat = s.ws.toNat + 5 * j ∧
      (∀ m, m < j → QuietWindow s.source s.reads s.ws.toNat m) ∧
      ((∃ q : Fin 8, ¬ s.source.silentRead (s.reads + j) ∧ p.toNat + 9 ≤ s.source.len.val ∧ ¬ s.source.errRead (s.reads + j) ∧
          s.source.syncAt (p.toNat + q.val) = true ∧
          (∀ r : Fin 8, r < q → s.source.syncAt (p.toNat + r.val) = false) ∧
          scan n s = .found (scanning s w p (j + 1)) q) ∨
       (¬ s.source.silentRead (s.reads + j) ∧ (s.source.len.val < p.toNat + 9 ∨ s.source.errRead (s.reads + j)) ∧
          scan n s = .failed (scanning s w p (j + 1))) ∨
       (s.source.silentRead (s.reads + j) ∧ scan n s = .hung (scanning s w p (j + 1)).stall)) := by
  induction n generalizing s with
  | zero => omega
  | succ n ih =>
    rcases windowStep_cases s with ⟨q, h1, h2, h3, h4, h5, hw⟩ | ⟨h1, h2, hw⟩ | ⟨h1, hw⟩ | ⟨hq, hw⟩
    · exact ⟨0, s.source.bytes s.ws.toNat 9, s.ws, by simp, by simp,
        .inl ⟨q, h1, h2, h3, h4, h5, by simp only [scan, hw, Nat.zero_add]⟩⟩
    · exact ⟨0, s.wbuf, s.ws, by simp, by simp, .inr (.inl ⟨h1, h2, by simp only [scan, hw, Nat.zero_add]⟩)⟩
    · exact ⟨0, s.wbuf, s.ws, by simp, by simp, .inr (.inr ⟨h1, by simp only [scan, hw, Nat.zero_add]⟩)⟩
    · have hin : s.ws.toNat + 9 ≤ s.source.len.val := by simpa using hq.inside
      have hws := ws_add_stride hin
      let t : State := scanning s (s.source.bytes s.ws.toNat 9) (s.ws + 5#64) 1
      have htw : t.ws.toNat = s.ws.toNat + 5 := hws
      have htr : t.reads = s.reads + 1 := rfl
      have hts : t.source = s.source := rfl
      obtain ⟨j, w, p, hp, hquiet, hend⟩ := ih t (by rw [hts, htw]; omega)
      have hs : scan (n + 1) s = scan n t := by simp only [scan, hw, t]
      have hsc : ∀ k, scanning t w p k = scanning s w p (k + 1) := by
        intro k
        simp [scanning, t, Nat.add_comm, Nat.add_left_comm]
      have hrj : t.reads + j = s.reads + (j + 1) := by rw [htr]; omega
      refine ⟨j + 1, w, p, by rw [hp, htw]; omega, ?_, ?_⟩
      · intro m hm
        cases m with
        | zero => exact hq
        | succ m =>
          have h := hquiet m (by omega)
          have e1 : t.reads + m = s.reads + (m + 1) := by rw [htr]; omega
          have e2 : t.ws.toNat + 5 * m = s.ws.toNat + 5 * (m + 1) := by rw [htw]; omega
          exact ⟨by rw [← e1]; exact h.answered, by rw [← e2]; exact h.inside, by rw [← e1]; exact h.noError,
            fun p => by rw [← e2]; exact h.noMatch p⟩
      · rw [hs, ← hrj, ← hsc]
        exact hend

/-- What LOCATE can do (40_locate.md R132 to R136; 70_reset_and_hazards.md R282): after `j` windows without a match, a match, a
failed read, or a read that is never answered. -/
theorem execLocate_cases (s : State) :
    ∃ j : Nat, (∀ m, m < j → QuietWindow s.source s.reads s.pos.toNat m) ∧
      ((∃ q : Fin 8, ¬ s.source.silentRead (s.reads + j) ∧ s.pos.toNat + 5 * j + 9 ≤ s.source.len.val ∧
          ¬ s.source.errRead (s.reads + j) ∧ s.source.syncAt (s.pos.toNat + 5 * j + q.val) = true ∧
          (∀ r : Fin 8, r < q → s.source.syncAt (s.pos.toNat + 5 * j + r.val) = false) ∧
          execLocate s = .next (located s (s.pos.toNat + 5 * j + q.val) (j + 1) .ok)) ∨
       (¬ s.source.silentRead (s.reads + j) ∧
          (s.source.len.val < s.pos.toNat + 5 * j + 9 ∨ s.source.errRead (s.reads + j)) ∧
          execLocate s = .next (located s (s.pos.toNat + 5 * j) (j + 1) .ioFailure)) ∨
       (s.source.silentRead (s.reads + j) ∧ ∃ w p,
          execLocate s = .next (scanning s w p (j + 1)).stall)) := by
  obtain ⟨j, w, p, hp, hquiet, hend⟩ := scan_cases (scanFuel s) (s.setWs s.pos) (by simp [scanFuel])
  simp only [State.setWs_ws, State.setWs_source, State.setWs_reads] at hp hquiet hend
  have hpo : BitVec.ofNat 64 (s.pos.toNat + 5 * j) = p := by
    rw [← hp]
    simp
  refine ⟨j, hquiet, ?_⟩
  rcases hend with ⟨q, h1, h2, h3, h4, h5, hs⟩ | ⟨h1, h2, hs⟩ | ⟨h1, hs⟩
  · refine .inl ⟨q, h1, by rw [← hp]; exact h2, h3, by rw [← hp]; exact h4, fun r hr => by rw [← hp]; exact h5 r hr, ?_⟩
    have hpq : BitVec.ofNat 64 (s.pos.toNat + 5 * j + q.val) = p + BitVec.ofNat 64 q.val := by
      rw [← hpo, BitVec.ofNat_add]
    simp only [execLocate, hs, located, hpq]
    rfl
  · refine .inr (.inl ⟨h1, by rw [← hp]; exact h2, ?_⟩)
    simp only [execLocate, hs, located, hpo]
    rfl
  · refine .inr (.inr ⟨h1, w, p, ?_⟩)
    simp only [execLocate, hs]
    rfl

end Sys2Proof.Machine
end

