-- ==== Sys2Proof/Laws/Peek.lean ====
section
/-! SUPPORT. What PEEK can do, said once. -/

namespace Sys2Proof.Machine

/-- The state a failed PEEK ends in (41_peek.md R170). -/
def peekCleared (s : State) (c : StatusCode) : State :=
  { s with hdrPos := 0#64, hdr := Header.zero, resValid := false, hbuf := Config.hbufAfter (s.reads + 1),
           reads := s.reads + 1, engine := .idle, done := true, err := c.bits, donePend := true }

/-- The state a successful PEEK ends in (41_peek.md R167). -/
def peekAccepted (s : State) (h : Header) : State :=
  { s with hdrPos := s.pos, hdr := h, resValid := true, hbuf := Config.hbufAfter (s.reads + 1),
           reads := s.reads + 1, engine := .idle, done := true, err := 0#4, donePend := true }

/-- PEEK whose read is answered with its 7 bytes. -/
theorem execPeek_ok {s : State} (h1 : ¬ s.source.silentRead s.reads) (h2 : s.pos.toNat + 7 ≤ s.source.len.val)
    (h3 : ¬ s.source.errRead s.reads) :
    execPeek s = match checkHeader (extractFields (headerWord (s.source.bytes s.pos.toNat 7))) with
      | .error c => .next (peekCleared s c)
      | .ok h => .next (peekAccepted s h) := by
  have hm : s.memRead s.pos.toNat 7 = .ok (s.source.bytes s.pos.toNat 7) := Source.answer_ok_iff.2 ⟨h1, h2, h3, rfl⟩
  simp only [execPeek, hm, peekDecode, State.setHbuf_hbuf]
  cases checkHeader (extractFields (headerWord (s.source.bytes s.pos.toNat 7))) <;> rfl

/-- What PEEK can do (41_peek.md R171; 70_reset_and_hazards.md R282). -/
theorem execPeek_cases (s : State) :
    (s.source.silentRead s.reads ∧ execPeek s = .next s.countRead.stall) ∨
    (¬ s.source.silentRead s.reads ∧ (s.source.len.val < s.pos.toNat + 7 ∨ s.source.errRead s.reads) ∧
      execPeek s = .next (peekCleared s .ioFailure)) ∨
    (¬ s.source.silentRead s.reads ∧ s.pos.toNat + 7 ≤ s.source.len.val ∧ ¬ s.source.errRead s.reads ∧
      ((∃ c, (c = .invalidSyncword ∨ c = .invalidFrameLength) ∧
          checkHeader (extractFields (headerWord (s.source.bytes s.pos.toNat 7))) = .error c ∧
          execPeek s = .next (peekCleared s c)) ∨
       (∃ h, checkHeader (extractFields (headerWord (s.source.bytes s.pos.toNat 7))) = .ok h ∧
          execPeek s = .next (peekAccepted s h)))) := by
  rcases hm : s.memRead s.pos.toNat 7 with b | _ | _ | _
  · obtain ⟨h1, h2, h3, -⟩ := Source.answer_ok_iff.1 hm
    refine .inr (.inr ⟨h1, h2, h3, ?_⟩)
    have he := execPeek_ok h1 h2 h3
    rcases checkHeader_cases (extractFields (headerWord (s.source.bytes s.pos.toNat 7))) with
      ⟨-, hc⟩ | ⟨-, -, hc⟩ | ⟨h, -, -, hc, -⟩
    · exact .inl ⟨_, .inl rfl, hc, by rw [he, hc]⟩
    · exact .inl ⟨_, .inr rfl, hc, by rw [he, hc]⟩
    · exact .inr ⟨h, hc, by rw [he, hc]⟩
  · obtain ⟨h1, h2⟩ := Source.answer_short_iff.1 hm
    exact .inr (.inl ⟨h1, .inl h2, by simp only [execPeek, hm]; rfl⟩)
  · obtain ⟨h1, _, h3⟩ := Source.answer_err_iff.1 hm
    exact .inr (.inl ⟨h1, .inr h3, by simp only [execPeek, hm]; rfl⟩)
  · exact .inl ⟨Source.answer_silent_iff.1 hm, by simp only [execPeek, hm]⟩

end Sys2Proof.Machine
end

