-- ==== Sys2Proof/Laws/Step.lean ====
section
/-! SUPPORT. What one step can do: the engine's turn, the host's access, and every turn of the schedule. -/

namespace Sys2Proof.Machine

/-- A word decodes to one of the six commands or is illegal, and the engine runs it so (30_encoding.md R95). -/
theorem runWord_cases (c : Word) (s : State) :
    (∃ i, decode c = .ok i ∧ runWord c s = exec i s) ∨ (∃ e, decode c = .error e ∧ runWord c s = execIllegal s) := by
  rcases h : decode c with e | i
  · exact .inr ⟨e, rfl, by simp only [runWord, h]⟩
  · exact .inl ⟨i, rfl, by simp only [runWord, h]⟩

/-- The engine's turn. -/
theorem engineTurn_cases (s : State) :
    (s.engine = .idle ∧ engineTurn s = .next s) ∨
    (∃ c a, s.engine = .run c a ∧ s.stalled = true ∧ engineTurn s = .next s) ∨
    (∃ c a, s.engine = .run c a ∧ s.stalled = false ∧ engineTurn s = runWord c s) := by
  rcases h : s.engine with _ | ⟨c, a⟩
  · exact .inl ⟨rfl, by simp only [engineTurn, h]⟩
  · rcases hs : s.stalled with _ | _
    · exact .inr (.inr ⟨c, a, rfl, rfl, by simp [engineTurn, h, hs]⟩)
    · exact .inr (.inl ⟨c, a, rfl, rfl, by simp [engineTurn, h, hs]⟩)

/-- BUSY is the engine state (10_state.md R38). -/
theorem busy_iff (s : State) : s.busy = true ↔ ∃ c a, s.engine = .run c a := by
  unfold State.busy
  rcases s.engine with _ | ⟨c, a⟩ <;> simp

theorem busy_false_iff (s : State) : s.busy = false ↔ s.engine = .idle := by
  unfold State.busy
  rcases s.engine with _ | ⟨c, a⟩ <;> simp

/-- The writes a host can make to the register window (10_state.md R21): one of seven. -/
inductive HostWrite (s : State) : State → Prop where
  | none : HostWrite s s
  | ctrl (b : Bool) : HostWrite s { s with ie := b }
  | ack : HostWrite s { s with donePend := false }
  | argLo (v : Word) : HostWrite s { s with argLo := v }
  | argHi (v : Word) : HostWrite s { s with argHi := v }
  | cmd (c : Word) : s.engine = .idle → HostWrite s (s.accept c)

/-- Writing a register does one of them. -/
theorem writeReg_cases (s : State) (r : RegName) (v : Word) : HostWrite s (s.writeReg r v) := by
  cases r <;> simp only [State.writeReg]
  case ctrl => exact .ctrl _
  case cmd =>
    unfold State.writeCmd
    by_cases h : s.busy = true
    · rw [if_pos h]
      exact .none
    · rw [if_neg h]
      exact .cmd v ((busy_false_iff s).1 (by simpa using h))
  case int =>
    by_cases h : v[0] = true
    · rw [if_pos h]
      exact .ack
    · rw [if_neg h]
      exact .none
  case argLo => exact .argLo v
  case argHi => exact .argHi v
  all_goals exact .none

/-- Writing at an offset does one of them. -/
theorem writeOffset_cases (s : State) (off : BitVec 8) (v : Word) : HostWrite s (s.writeOffset off v) := by
  unfold State.writeOffset
  cases RegName.ofOffset off with
  | none => exact .none
  | some r => exact writeReg_cases s r v

/-- What the host's turn and a bus access can do to the block: one of its writes, and then only the host's own records. -/
inductive HostEffect (s : State) : State → Prop where
  | mk (t : State) (v : Word) (ag : HostAgent) : HostWrite s t → HostEffect s { t with rdata := v, agent := ag }

theorem HostEffect.of_write {s t : State} (h : HostWrite s t) : HostEffect s t :=
  .mk t t.rdata t.agent h

theorem HostEffect.of_agent (s : State) (v : Word) (ag : HostAgent) : HostEffect s { s with rdata := v, agent := ag } :=
  .mk s v ag .none

/-- A bus access that is answered (10_state.md R22). -/
theorem busAccess_effect {s t : State} {a : Access} (h : busAccess s a = .next t) : HostEffect s t := by
  cases a with
  | read w off =>
    simp only [busAccess] at h
    split at h
    · cases h
      exact .of_agent s _ s.agent
    · cases h
  | write w off v =>
    simp only [busAccess] at h
    split at h
    · cases h
      exact .of_write (writeOffset_cases s off v)
    · cases h

/-- A branch that is taken. -/
theorem branchTo_effect {s t : State} {n : Nat} (h : branchTo s n = .next t) : HostEffect s t := by
  unfold branchTo at h
  split at h
  · cases h
    exact .of_agent s s.rdata _
  · cases h

/-- A line of the host program that is run (30_encoding.md R110). -/
theorem runLine_effect {s t : State} {l : AsmLine} (h : runLine l s = .next t) : HostEffect s t := by
  cases l with
  | wr r imm =>
    simp only [runLine] at h
    cases h
    exact .mk _ _ _ (writeOffset_cases s r.offset imm)
  | rd r =>
    simp only [runLine] at h
    cases h
    exact .of_agent s _ _
  | wait =>
    simp only [runLine, hostWait] at h
    split at h
    · cases h
      exact .of_agent s _ _
    · cases h
      exact .of_agent s _ _
  | bErr target =>
    simp only [runLine] at h
    split at h
    · exact branchTo_effect h
    · cases h
      exact .of_agent s s.rdata _
  | bEq f imm target =>
    simp only [runLine, hostBranchEq] at h
    split at h
    · split at h
      · exact branchTo_effect h
      · cases h
        exact .of_agent s s.rdata _
    · cases h
  | b target => exact branchTo_effect h
  | halt =>
    simp only [runLine] at h
    cases h
    exact .of_write .none
  | label name =>
    simp only [runLine] at h
    cases h
    exact .of_agent s s.rdata _

/-- The host agent's turn. -/
theorem hostTurn_effect {s t : State} (h : hostTurn s = .next t) : HostEffect s t := by
  unfold hostTurn at h
  split at h
  · exact runLine_effect h
  · cases h
    exact .of_write .none

/-- Attaching a byte source that is accepted (70_reset_and_hazards.md R273, R279). -/
theorem attachSource_cases {s t : State} {len : Nat} {cells : List Host.Cell} {errDraws silentDraws : Draws}
    (h : attachSource s len cells errDraws silentDraws = .next t) :
    ∃ hl : len < 18446744073709551617, s.sourceInUse = false ∧ t = s.setSource ⟨len, hl⟩ cells errDraws silentDraws := by
  unfold attachSource at h
  split at h
  · rename_i hl
    split at h
    · cases h
    · rename_i hc
      cases h
      exact ⟨hl, by simpa using hc, rfl⟩
  · cases h

/-- What one step can do from `s`, on the state `u` that is `s` with its turn taken: an engine's turn, a host's effect, a reset,
or an attached source. -/
inductive StepKind (s u : State) : State → Prop where
  | engine (t : State) : s.turns = [] ∨ s.turns.head? = some .engine → engineTurn u = .next t → StepKind s u t
  | host (t : State) : HostEffect u t → StepKind s u t
  | rst : s.turns.head? = some .rst → StepKind s u u.afterRst
  | attach (len : Fin 18446744073709551617) (cells : List Host.Cell) (errDraws silentDraws : Draws) :
      s.turns.head? = some (.attach len.val cells errDraws silentDraws) → u.sourceInUse = false →
      StepKind s u (u.setSource len cells errDraws silentDraws)

/-- The inversion lemma of the step: the state the turn acts on is `s` itself or `s` with its first turn taken. -/
theorem step_cases {s t : State} (h : step s = .next t) :
    ∃ u, (u = s ∨ u = s.popTurn) ∧ StepKind s u t := by
  unfold step nextTurn at h
  split at h
  · rename_i hturns
    refine ⟨s, .inl rfl, ?_⟩
    unfold freeTurn at h
    split at h
    · exact .engine t (.inl hturns) h
    · exact .host t (hostTurn_effect h)
  · rename_i turn rest hturns
    have hh : s.turns.head? = some turn := by rw [hturns]; rfl
    refine ⟨s.popTurn, .inr rfl, ?_⟩
    cases turn with
    | engine => exact .engine t (.inr hh) h
    | host => exact .host t (hostTurn_effect h)
    | bus a => exact .host t (busAccess_effect h)
    | rst =>
      simp only [takeTurn] at h
      cases h
      exact .rst hh
    | attach len cells errDraws silentDraws =>
      obtain ⟨hl, h1, rfl⟩ := attachSource_cases h
      exact .attach ⟨len, hl⟩ cells errDraws silentDraws hh h1

end Sys2Proof.Machine
end

