-- ==== Sys2Proof/Laws/Host.lean ====
section
/-! SUPPORT. The host's side, said once: the offsets of the registers, the values a host remembers, the fields of a register word. -/

namespace Sys2Proof.Machine

/-- Every register is found at its own offset (10_state.md R21). -/
@[simp] theorem RegName.ofOffset_offset (r : RegName) : RegName.ofOffset r.offset = some r := by
  cases r <;> rfl

@[simp] theorem State.readOffset_offset (s : State) (r : RegName) : s.readOffset r.offset = s.readReg r := by
  simp [State.readOffset]

@[simp] theorem State.writeOffset_offset (s : State) (r : RegName) (v : Word) : s.writeOffset r.offset v = s.writeReg r v := by
  simp [State.writeOffset]

/-- Forgetting one register keeps the value of every other. -/
theorem lastRead_filter {q r : RegName} (h : q ≠ r) (l : List (RegName × Word)) :
    lastRead q (l.filter (fun e => decide (e.1 ≠ r))) = lastRead q l := by
  induction l with
  | nil => rfl
  | cons c rest ih =>
    obtain ⟨k, w⟩ := c
    by_cases hk : k = r
    · have hne : k ≠ q := fun e => h (e.symm.trans hk)
      rw [List.filter_cons_of_neg (by simp [hk]), ih, lastRead, if_neg hne]
    · rw [List.filter_cons_of_pos (by simp [hk])]
      by_cases hq : k = q
      · rw [lastRead, lastRead, if_pos hq, if_pos hq]
      · rw [lastRead, lastRead, if_neg hq, if_neg hq, ih]

/-- What a host remembers after a read (30_encoding.md R110). -/
@[simp] theorem lastRead_recordRead (q r : RegName) (v : Word) (l : List (RegName × Word)) :
    lastRead q (recordRead r v l) = if q = r then some v else lastRead q l := by
  unfold recordRead
  by_cases h : q = r
  · subst h
    simp [lastRead]
  · rw [if_neg h, lastRead, if_neg (fun e => h e.symm), lastRead_filter h]

/-- A field is read from the register that its place names. -/
theorem FieldName.reg_eq_place (f : FieldName) : f.reg = f.place.1 := by
  cases f <;> rfl

/-- A field of a register word, as a number (10_state.md R27, R33, R34). -/
theorem FieldName.extract_toNat (f : FieldName) (v : Word) :
    (f.extract v).toNat = v.toNat / 2 ^ f.place.2.1 % 2 ^ f.place.2.2 := by
  have := v.isLt
  cases f <;> simp only [FieldName.extract, FieldName.place, BitVec.toNat_setWidth, Machine.extract_toNat] <;> omega

/-- A host's write changes nothing of the host agent. -/
theorem HostWrite.agent_eq {s t : State} (h : HostWrite s t) : t.agent = s.agent := by
  cases h <;> rfl

end Sys2Proof.Machine
end

