-- ==== Sys2Proof/Laws/PerInstr.lean ====
section
/-! SUPPORT. The statement made of every command as syntax: its word (30_encoding.md R91, R92, R95). -/

namespace Sys2Proof.Laws.CommandWord

/-- The command's word has RSV = 0 and its opcode below 6, and the decoder reads the command back from it. -/
def Statement (i : Instr) : Prop :=
  i.wellFormed = true ∧ (Cmd32.ofWord (encode i)).wellFormed = true ∧ (Cmd32.ofWord (encode i)).op = opcode i ∧
    decode (encode i) = .ok i ∧ decodeTableWord 32 (encode i).toNat = some i

theorem nop : Statement .nop := ⟨rfl, by decide, by decide, rfl, by decide⟩

theorem seekAbs : Statement .seekAbs := ⟨rfl, by decide, by decide, rfl, by decide⟩

theorem seekRel : Statement .seekRel := ⟨rfl, by decide, by decide, rfl, by decide⟩

theorem locate : Statement .locate := ⟨rfl, by decide, by decide, rfl, by decide⟩

theorem peek : Statement .peek := ⟨rfl, by decide, by decide, rfl, by decide⟩

theorem advance : Statement .advance := ⟨rfl, by decide, by decide, rfl, by decide⟩

end Sys2Proof.Laws.CommandWord
end

