-- ==== Sys2Proof/Tests/Slice0.lean ====
section
/-! SUPPORT. The model's own tests: the checks of WellFormed, the decoding of words written out from the spec's encoding, vectors of
spec/95_test_vectors.md, and one witness for each statement that has hypotheses. -/

namespace Sys2Proof.Tests

open Sys2Proof.Machine

/-! ### Helpers -/

/-- The draws listed, and none of the later ones. -/
def drawn (l : List Bool) : Draws := { listed := l, later := .never }

/-- With nothing listed no read draws. -/
theorem drawn_nil (free : Nat → Bool) (k : Nat) : ¬ (drawn []).draw free k := by
  simp [drawn, Draws.draw]

/-- A byte source holding a list of bytes, with the draws of its first reads. -/
def srcOf (bs : List Nat) (err silent : List Bool) : Source :=
  { len := Fin.ofNat 18446744073709551617 bs.length
    cells := placeCells bs.length (bs.zipIdx.map (fun p => (p.2, BitVec.ofNat 8 p.1)))
    errDraws := drawn err, silentDraws := drawn silent }

/-- The reset state with a source attached and POS set. -/
def onSource (bs : List Nat) (pos : Nat) : State :=
  { State.reset with source := srcOf bs [] [], pos := BitVec.ofNat 64 pos }

/-- The reset state with POS and ARG set. -/
def atPos (pos arg : Nat) : State :=
  { State.reset with pos := BitVec.ofNat 64 pos, argLo := BitVec.ofNat 32 arg, argHi := BitVec.ofNat 32 (arg / 2 ^ 32) }

/-- STATUS, POS, HDR_POS, HDR_F0, HDR_F1 and the number of reads after a step. -/
def seenAfter (r : Host.Outcome State Fault Refusal) : Option (Nat × Nat × Nat × Nat × Nat × Nat) :=
  match r with
  | .next s => some (s.statusWord.toNat, s.pos.toNat, s.hdrPos.toNat, s.hdr.f0.toNat, s.hdr.f1.toNat, s.reads)
  | .fault _ => none
  | .refused _ => none

/-- One step that runs a command word. -/
def runsTo (s : State) (w : Nat) : Option (Nat × Nat × Nat × Nat × Nat × Nat) :=
  seenAfter (step (s.withFetchWord 32 w))

/-- One step of a scheduled turn. -/
def turnTo (s : State) (t : Turn) : State :=
  match step { s with turns := [t] } with
  | .next u => u
  | .fault _ => State.reset
  | .refused _ => State.reset

/-- Header A of 95_test_vectors.md section 0. -/
def headerA : List Nat := [0xFF, 0xF1, 0x50, 0x80, 0x02, 0x1F, 0xFC]

/-! ### WellFormed: an ill-formed term for each check -/

theorem test_wellFormed_accepts_peek : (Cmd32.ofWord 0x00000004#32).wellFormed = true := by decide
theorem test_wellFormed_refuses_rsv : ({ rsv := 1#28, op := 3#4 } : Cmd32).wellFormed = false := by decide
theorem test_wellFormed_refuses_op : ({ rsv := 0#28, op := 6#4 } : Cmd32).wellFormed = false := by decide
theorem test_instr_wellFormed : Instr.wellFormed .locate = true := by decide
theorem test_access_refuses_width : accessOk 16 0x04#8 = false := by decide
theorem test_access_refuses_misaligned : accessOk 32 0x06#8 = false := by decide
theorem test_program_refuses_missing_label : progWellFormed [.b 3, .label 2] = false := by decide
theorem test_program_accepts_the_walk : progWellFormed (bootProgram true 5#64) = true := by decide
theorem test_source_refuses_unsorted : ({ srcOf [1, 2] [] [] with cells := [(1, 2#8), (0, 1#8)] } : Source).wf = false := by decide
theorem test_source_refuses_beyond_length : ({ srcOf [1, 2] [] [] with cells := [(2, 1#8)] } : Source).wf = false := by decide
theorem test_source_refuses_default_byte : ({ srcOf [1, 2] [] [] with cells := [(0, 0#8)] } : Source).wf = false := by decide
theorem test_source_attached_wf : (srcOf (headerA ++ [0, 0]) [] []).wf = true := by decide

/-- 00_scope.md R6: `STRIDE = W - 4`, `OVERLAP = 4`, and PEEK reads the 56 bits of the fixed header. -/
theorem test_parameters : Config.stride = Config.windowLen - Config.overlap ∧ Config.hdrLen * 8 = 56 := by decide

/-! ### Decoding: words written out bit by bit from 30_encoding.md R91, R92 -/

theorem test_decode_nop : decode 0b00000000000000000000000000000000#32 = .ok .nop := rfl
theorem test_decode_seekAbs : decode 0b00000000000000000000000000000001#32 = .ok .seekAbs := rfl
theorem test_decode_seekRel : decode 0b00000000000000000000000000000010#32 = .ok .seekRel := rfl
theorem test_decode_locate : decode 0b00000000000000000000000000000011#32 = .ok .locate := rfl
theorem test_decode_peek : decode 0b00000000000000000000000000000100#32 = .ok .peek := rfl
theorem test_decode_advance : decode 0b00000000000000000000000000000101#32 = .ok .advance := rfl
theorem test_decode_reserved_op : decode 0b00000000000000000000000000000110#32 = .error .reservedOp := rfl
theorem test_decode_rsv_set : decode 0b00000000000000000000000000010011#32 = .error .reservedBits := rfl
theorem test_decode_high_bit : decode 0b10000000000000000000000000000000#32 = .error .reservedBits := rfl
theorem test_table_word : decodeTableWord 32 3 = some .locate ∧ decodeTableWord 32 6 = none := by decide

/-! ### Vectors of 95_test_vectors.md section 2 -/

/-- N1. -/
theorem test_nop_N1 : runsTo (atPos 5 0) 0 = some (0x02, 5, 0, 0, 0, 0) := by decide
/-- S2. -/
theorem test_seekAbs_S2 : runsTo (atPos 0 0xFFFFFFFFFFFFFFFF) 1 = some (0x02, 2 ^ 64 - 1, 0, 0, 0, 0) := by decide
/-- R3. -/
theorem test_seekRel_R3 : runsTo (atPos (2 ^ 63) 0x8000000000000000) 2 = some (0x02, 0, 0, 0, 0, 0) := by decide
/-- R4. -/
theorem test_seekRel_R4 : runsTo (atPos (2 ^ 64 - 1) 1) 2 = some (0x12, 2 ^ 64 - 1, 0, 0, 0, 0) := by decide
/-- L5a. -/
theorem test_locate_L5a :
    runsTo (onSource (List.replicate 13 0 ++ [0xFF, 0xF1, 0, 0, 0]) 0) 3 = some (0x12, 10, 0, 0, 0, 3) := by decide
/-- L5b. -/
theorem test_locate_L5b :
    runsTo (onSource (List.replicate 13 0 ++ [0xFF, 0xF1, 0, 0, 0, 0]) 0) 3 = some (0x02, 13, 0, 0, 0, 3) := by decide
/-- P10. -/
theorem test_peek_P10 : runsTo (onSource [0xFF, 0xFF, 0xFF, 0xFC, 0x0C, 0x80, 0x00] 0) 4 =
    some (0x06, 0, 0, 0x7F033FFF, 0x64, 1) := by decide
/-- P5. -/
theorem test_peek_P5 : runsTo (onSource [0xFF, 0xF0, 0, 0, 1, 0, 0] 0) 4 = some (0x52, 0, 0, 0, 0, 1) := by decide
/-- A2. -/
theorem test_advance_A2 :
    runsTo { atPos 9 0 with resValid := true, hdrPos := 4#64, hdr := { Header.zero with frameLength := 16#13 } } 5 =
      some (0x06, 20, 4, 0, 16, 0) := by decide
/-- A5. -/
theorem test_advance_A5 :
    runsTo { atPos 5 0 with resValid := true, hdrPos := 0xFFFFFFFFFFFFFFF5#64,
                            hdr := { Header.zero with frameLength := 16#13 } } 5 =
      some (0x16, 5, 2 ^ 64 - 11, 0, 16, 0) := by decide
/-- X2: LOCATE's opcode with RSV = 1 does not run LOCATE. -/
theorem test_illegal_X2 : runsTo (onSource ([0, 0, 0, 0, 0xFF, 0xF1] ++ List.replicate 8 0) 4) 0x13 =
    some (0x72, 4, 0, 0, 0, 0) := by decide
/-- G1. -/
theorem test_bus_G1 : (turnTo State.reset (.bus (.read 32 0x00#8))).rdata = 0x41445453#32 := by decide
/-- G6. -/
theorem test_bus_G6 : (turnTo { State.reset with donePend := true } (.bus (.write 32 0x04#8 1#32))).irq = true := by decide
/-- G7. -/
theorem test_bus_G7 : (turnTo { State.reset with donePend := true } (.bus (.write 32 0x10#8 0#32))).donePend = true := by decide
/-- G8. -/
theorem test_bus_G8 : (turnTo ((onSource headerA 0).accept 3#32) (.bus (.write 32 0x08#8 4#32))).engine = .run 3#32 0#64 := by
  decide
/-- G12. -/
theorem test_rst_G12 : (turnTo { (atPos 7 9).accept 3#32 with ie := true, donePend := true } .rst).visible = State.reset.visible := by
  decide
/-- Program 4, `seek.rel -20`: the two halves written. -/
theorem test_pseudo_seekRel : Pseudo.expand (.seekRel (-20)) =
    [.wr .argLo 0xFFFFFFEC#32, .wr .argHi 0xFFFFFFFF#32, .wr .cmd 0x2#32, .wait] := by decide
/-- `b.eq` on a field that was read takes its branch. -/
theorem test_host_bEq :
    (turnTo { State.reset with agent := { prog := [.bEq .err 7#32 4, .halt, .label 4], line := 0,
                                          seen := [(.status, 0x72#32)] } } .host).agent.line = 2 := by decide

/-! ### Witnesses: a concrete state that meets the hypotheses of each statement, at boundary values of its clauses -/

/-- A running LOCATE, PEEK, ... at POS on a stream. -/
def running (s : State) (c : Word) : State := { s.accept c with turns := [] }

theorem witness_CommandWordsDecodeByOpcodeMap : 6 ≤ (6#4).toNat ∧ 6 ≤ (15#4).toNat := by decide
theorem witness_DecodeIsTotalAndExact :
    (5#32).toNat < 6 ∧ decode 5#32 = .ok .advance ∧ 6 ≤ (6#32).toNat := ⟨by decide, rfl, by decide⟩
theorem witness_StepRunsTheDecodedCommand :
    (running (atPos 5 0) 1#32).engine = .run 1#32 0#64 ∧ (running (atPos 5 0) 1#32).stalled = false ∧
      decode 1#32 = .ok .seekAbs ∧ (running (atPos 5 0) 1#32).turns = [] ∧
      ({ running (atPos 5 0) 1#32 with turns := [.engine, .rst] } : State).turns = .engine :: [.rst] :=
  ⟨by decide, by decide, rfl, rfl, rfl⟩
theorem witness_IllegalWordCompletesWithIllegalCommand :
    (running (atPos 4 0) 0x13#32).engine = .run 0x13#32 0#64 ∧ (running (atPos 4 0) 0x13#32).stalled = false ∧
      (running (atPos 4 0) 0x13#32).turns = [] ∧
      ({ running (atPos 4 0) 0x13#32 with turns := [.engine, .rst] } : State).turns = .engine :: [.rst] ∧ (0x13#32).toNat / 16 ≠ 0 ∧ 6 ≤ (6#32).toNat % 16 := by decide
theorem witness_IdleBlockWaitsUnchanged :
    State.reset.engine = .idle ∧ State.reset.turns = [] ∧ State.reset.agent.prog[State.reset.agent.line]? = none ∧
      ({ State.reset.agent with prog := [.halt] } : HostAgent).prog[0]? = some .halt := by decide
theorem witness_ScheduleGivesEachAgentItsTurn :
    ({ State.reset with turns := [.rst] } : State).turns = .rst :: [] ∧ State.reset.turns = [] ∧
      (running State.reset 0#32).engine ≠ .idle ∧ State.reset.engine = .idle := by decide
theorem witness_SeekAbsSetsPosition : (running (atPos 0 (2 ^ 64 - 1)) 1#32).engine = .run 1#32 0xFFFFFFFFFFFFFFFF#64 := by
  decide
theorem witness_SeekRelMovesOrFails :
    (running (atPos (2 ^ 64 - 2) 1) 2#32).engine = .run 2#32 1#64 ∧
      (0 : Int) ≤ ((atPos (2 ^ 64 - 2) 1).pos.toNat : Int) + (1#64).toInt ∧
      ((atPos (2 ^ 64 - 2) 1).pos.toNat : Int) + (1#64).toInt ≤ 2 ^ 64 - 1 ∧
      2 ^ 64 - 1 < ((atPos (2 ^ 64 - 1) 1).pos.toNat : Int) + (1#64).toInt ∧
      ((atPos 0 0).pos.toNat : Int) + (0xFFFFFFFFFFFFFFFF#64).toInt < 0 :=
  ⟨rfl, by norm_num [atPos], by norm_num [atPos], by norm_num [atPos],
    by rw [show (0xFFFFFFFFFFFFFFFF#64).toInt = -1 by decide]; norm_num [atPos]⟩
/-- A result with HDR_POS and a frame length. -/
def withResult (h fl : Nat) : State :=
  { State.reset with resValid := true, hdrPos := BitVec.ofNat 64 h, hdr := { Header.zero with frameLength := BitVec.ofNat 13 fl } }
theorem witness_AdvanceMovesOrFails :
    (withResult 18446744073709551599 16).resValid = true ∧
      (withResult 18446744073709551599 16).hdrPos.toNat + (withResult 18446744073709551599 16).hdr.frameLength.toNat ≤
        2 ^ 64 - 1 ∧
      2 ^ 64 - 1 <
        (withResult 18446744073709551600 16).hdrPos.toNat + (withResult 18446744073709551600 16).hdr.frameLength.toNat ∧
      State.reset.resValid = false :=
  ⟨rfl, by norm_num [withResult], by norm_num [withResult], rfl⟩
theorem witness_AdvanceIsIdempotent :
    exec .advance (withResult 4 16) = .next ((withResult 4 16).setPos 20#64 |>.complete .ok) := by
  simp [exec, execAdvance, withResult, State.finish, posInRange, posOfInt]
/-- The state after a PEEK on header A. -/
def afterPeekA : State := peekAccepted (onSource headerA 0)
  { syncword := 0xFFF#12, mpegVersion := 0#1, protAbsent := 1#1, aot := 1#6, sfi := 4#4, chcfg := 2#3, frameLength := 16#13 }
theorem witness_AdvanceAfterPeekMovesForward :
    ¬ (onSource headerA 0).source.silentRead ((onSource headerA 0).reads) ∧
      exec .peek (onSource headerA 0) = .next afterPeekA ∧ afterPeekA.err = 0#4 ∧
      (onSource headerA 0).source.len.val ≤ 18446744073709543431 :=
  ⟨by decide, rfl, rfl, by decide⟩
/-- Header B has PROT_ABSENT = 0 (the last clause of AdvanceAfterPeekMovesForward). -/
theorem witness_AdvanceAfterPeekMovesForward_crc :
    runsTo (onSource [0xFF, 0xF8, 0x4C, 0x40, 0x02, 0x9F, 0xFC] 0) 4 = some (0x06, 0, 0, 0x13011FFF, 0x14, 1) := by decide
theorem witness_PeekAcceptsTheHeader :
    let s := onSource [0xFF, 0xF1, 0, 0, 0, 0xE0, 0] 0
    s.nextReadGood ∧ s.pos.toNat + 7 ≤ s.source.len.val ∧ s.hdrByte 0 * 16 + s.hdrByte 1 / 16 = 0xFFF ∧
      (if s.hdrByte 1 % 2 = 1 then 7 else 9) ≤ s.hdrByte 3 % 4 * 2048 + s.hdrByte 4 * 8 + s.hdrByte 5 / 32 :=
  ⟨⟨by decide, by decide⟩, by decide, by decide, by decide⟩
theorem witness_PeekRejectsAnotherSyncword :
    let s := onSource [0xFF, 0xE1, 0, 0, 0, 0, 0] 0
    s.nextReadGood ∧ s.pos.toNat + 7 ≤ s.source.len.val ∧ s.hdrByte 0 * 16 + s.hdrByte 1 / 16 ≠ 0xFFF :=
  ⟨⟨by decide, by decide⟩, by decide, by decide⟩
theorem witness_PeekRejectsAShortFrameLength :
    let s := onSource [0xFF, 0xF0, 0, 0, 1, 0, 0] 0
    s.nextReadGood ∧ s.pos.toNat + 7 ≤ s.source.len.val ∧ s.hdrByte 0 * 16 + s.hdrByte 1 / 16 = 0xFFF ∧
      s.hdrByte 3 % 4 * 2048 + s.hdrByte 4 * 8 + s.hdrByte 5 / 32 < (if s.hdrByte 1 % 2 = 1 then 7 else 9) :=
  ⟨⟨by decide, by decide⟩, by decide, by decide, by decide⟩
/-- A source whose first read ends in Err (vectors L12, P18). -/
def firstReadErr : State := { onSource (headerA ++ [0, 0]) 0 with source := srcOf (headerA ++ [0, 0]) [true] [] }
/-- A source that never answers its first read. -/
def firstReadSilent : State := { onSource (headerA ++ [0, 0]) 0 with source := srcOf (headerA ++ [0, 0]) [] [true] }
theorem witness_PeekFailsOnAFailedRead :
    ¬ (onSource headerA 1).source.silentRead ((onSource headerA 1).reads) ∧
      (onSource headerA 1).source.len.val < (onSource headerA 1).pos.toNat + 7 ∧
      ¬ firstReadErr.source.silentRead firstReadErr.reads ∧ firstReadErr.source.errRead firstReadErr.reads := by decide
theorem witness_PeekFrame :
    exec .peek (onSource headerA 0) = .next afterPeekA ∧ (running (onSource headerA 1) 4#32).busy = true ∧
      exec .peek (running (onSource headerA 1) 4#32) = .next (peekCleared (running (onSource headerA 1) 4#32) .ioFailure) ∧
      (peekCleared (running (onSource headerA 1) 4#32) .ioFailure).err ≠ 0#4 :=
  ⟨rfl, by decide, rfl, by decide⟩
/-- The fields of header A. -/
def fieldsA : RawHeader :=
  { syncword := 0xFFF#12, mpegVersion := 0#1, layer := 0#2, protAbsent := 1#1, aotCode := 1#2, sfi := 4#4, privateBit := 0#1,
    chcfg := 2#3, originality := 0#1, home := 0#1, copyrightId := 0#1, copyrightIdStart := 0#1, frameLength := 16#13,
    bufferFullness := 0x7FF#11, rawDataBlockCount := 0#2 }
theorem witness_PeekRoundTrip :
    let s := onSource headerA 0
    s.nextReadGood ∧ s.pos.toNat + 7 ≤ s.source.len.val ∧ fieldsA.syncword = 0xFFF#12 ∧
      (if fieldsA.protAbsent = 1#1 then 7 else 9) ≤ fieldsA.frameLength.toNat ∧
      ∀ i : Fin 7, s.source.byteAt (s.pos.toNat + i.val) = headerByte (layoutFields fieldsA) i :=
  ⟨⟨by decide, by decide⟩, by decide, by decide, by decide, by decide⟩
theorem witness_PeekIsIdempotent :
    ¬ (onSource headerA 0).source.silentRead ((onSource headerA 0).reads) ∧
      ¬ (onSource headerA 0).source.silentRead ((onSource headerA 0).reads + 1) ∧
      ¬ (onSource headerA 0).source.errRead ((onSource headerA 0).reads) ∧
      ¬ (onSource headerA 0).source.errRead ((onSource headerA 0).reads + 1) := by decide
theorem witness_PeekDependsOnItsSevenBytesOnly :
    let s := onSource (headerA ++ [1]) 0
    let s' := onSource (headerA ++ [2]) 0
    s.pos = s'.pos ∧ s.source.len = s'.source.len ∧
      (∀ i, i < 7 → s.source.byteAt (s.pos.toNat + i) = s'.source.byteAt (s.pos.toNat + i)) ∧
      ¬ s.source.silentRead s.reads ∧ ¬ s'.source.silentRead (s'.reads) ∧ (s.source.errRead s.reads ↔ s'.source.errRead (s'.reads)) := by
  decide
/-- A running LOCATE on header A and two more bytes, and the state it ends in. -/
def locatesA : State := running (onSource (headerA ++ [0, 0]) 0) 3#32
def locatedA : State := located locatesA 0 1 .ok
theorem witness_PeekAfterLocateNeverMissesTheSyncword :
    locatesA.busy = true ∧ exec .locate locatesA = .next locatedA ∧ locatedA.engine = .idle ∧ locatedA.err = 0#4 ∧
      ∃ u, exec .peek (locatedA.accept (encode .peek)) = .next u ∧ u.engine = .idle :=
  ⟨by decide, rfl, rfl, rfl, _, rfl, rfl⟩
theorem witness_LocateClosedForm :
    (onSource (List.replicate 7 0 ++ [0xFF, 0xF0]) 0).noDeviceError ∧
      (onSource (List.replicate 7 0 ++ [0xFF, 0xF0]) 0).allAnswered ∧
      (onSource (List.replicate 7 0 ++ [0xFF, 0xF0]) 0).source.firstSync 0 7 ∧
      0 + 5 * windowsTo (7 - 0) + 9 ≤ (onSource (List.replicate 7 0 ++ [0xFF, 0xF0]) 0).source.len.val :=
  ⟨fun k _ => drawn_nil _ k, fun k _ => drawn_nil _ k,
    ⟨by decide, by decide, by decide, fun j _ h => by revert j; decide⟩, by decide⟩
/-- The source of vector L3a: the only match, at 8, is not covered by a full window. -/
def sourceL3a : State := onSource (List.replicate 8 0 ++ [0xFF, 0xF1, 0, 0]) 0
/-- The failing clause: L3a has a first match, and no first match of it fits. -/
theorem witness_LocateClosedForm_failing :
    sourceL3a.noDeviceError ∧ sourceL3a.allAnswered ∧ sourceL3a.source.firstSync sourceL3a.pos.toNat 8 ∧
      ∀ k, sourceL3a.source.firstSync sourceL3a.pos.toNat k →
        sourceL3a.source.len.val < sourceL3a.pos.toNat + 5 * windowsTo (k - sourceL3a.pos.toNat) + 9 := by
  have h8 : sourceL3a.source.firstSync sourceL3a.pos.toNat 8 :=
    ⟨by decide, by decide, by decide, fun j _ h => by revert j; decide⟩
  refine ⟨fun k _ => drawn_nil _ k, fun k _ => drawn_nil _ k, h8, fun k h => ?_⟩
  have hk : k = 8 := by
    rcases Nat.lt_trichotomy k 8 with hl | he | hg
    · exact absurd h.2.2.1 (by rw [h8.2.2.2 k h.1 hl]; decide)
    · exact he
    · exact absurd h8.2.2.1 (by rw [h.2.2.2 8 h8.1 hg]; decide)
  subst hk
  decide
theorem witness_LocateReturnsTheFirstMatch :
    locatesA.busy = true ∧ exec .locate locatesA = .next locatedA ∧ locatedA.engine = .idle ∧ locatedA.err = 0#4 :=
  ⟨by decide, rfl, rfl, rfl⟩
theorem witness_LocateStopsAtAFailedRead :
    let s := onSource (List.replicate 9 0) 0
    s.allAnswered ∧
      (∀ m, m < 1 → s.pos.toNat + 5 * m + 9 ≤ s.source.len.val ∧ ¬ s.source.errRead (s.reads + m) ∧
        ∀ p, p < 8 → s.source.syncAt (s.pos.toNat + 5 * m + p) = false) ∧
      s.source.len.val < s.pos.toNat + 5 * 1 + 9 ∧ firstReadErr.source.errRead (firstReadErr.reads + 0) :=
  ⟨fun k _ => drawn_nil _ k, by decide, by decide, by decide⟩
theorem witness_LocateFailsWithoutAFullWindow :
    ¬ (onSource (List.replicate 8 0) 0).source.silentRead (onSource (List.replicate 8 0) 0).reads ∧
      (onSource (List.replicate 8 0) 0).source.len.val < (onSource (List.replicate 8 0) 0).pos.toNat + 9 := by decide
theorem witness_LocateCompletesWithinTheReadBound : (onSource headerA 0).allAnswered := fun k _ => drawn_nil _ k
theorem witness_LocateAtAMatchStays :
    let s := onSource (headerA ++ [0, 0]) 0
    s.nextReadGood ∧ s.pos.toNat + 9 ≤ s.source.len.val ∧ s.source.syncAt s.pos.toNat = true :=
  ⟨⟨by decide, by decide⟩, by decide, by decide⟩
theorem witness_LocateFrame :
    exec .locate locatesA = .next locatedA ∧ locatesA.busy = true ∧ locatedA.engine = .idle := ⟨rfl, by decide, rfl⟩
theorem witness_EveryCommandCompletes : State.reset.allAnswered := fun k _ => drawn_nil _ k
/-- A source whose first window is read without a match and whose second read is never answered. -/
def secondReadSilent : State :=
  { onSource (List.replicate 9 0) 0 with source := srcOf (List.replicate 9 0) [] [false, true] }
/-- The clause of LOCATE at `j = 0` and at `j = 1`, and the clause of PEEK. -/
theorem witness_UnansweredReadHangsTheEngine :
    (let s := running secondReadSilent 3#32
     s.engine = .run (encode .locate) 0#64 ∧ s.stalled = false ∧ s.turns = [] ∧
      (∀ m, m < 1 → s.pos.toNat + 5 * m + 9 ≤ s.source.len.val ∧ ¬ s.source.silentRead (s.reads + m) ∧
        ¬ s.source.errRead (s.reads + m) ∧ ∀ p, p < 8 → s.source.syncAt (s.pos.toNat + 5 * m + p) = false) ∧
      s.source.silentRead (s.reads + 1)) ∧
    (running firstReadSilent 3#32).engine = .run (encode .locate) 0#64 ∧
      (running firstReadSilent 4#32).engine = .run (encode .peek) 0#64 ∧ (running firstReadSilent 3#32).stalled = false ∧
      (running firstReadSilent 3#32).turns = [] ∧
      (running firstReadSilent 3#32).source.silentRead ((running firstReadSilent 3#32).reads) := by decide
theorem reset_inv : State.reset.Inv :=
  ⟨nofun, ⟨by decide, fun _ => rfl⟩, fun _ => ⟨rfl, rfl⟩, nofun, ⟨fun _ => ⟨rfl, rfl, rfl⟩, nofun, by decide⟩⟩
theorem witness_EveryStepKeepsTheInvariant : State.reset.Inv ∧ step State.reset = .next State.reset :=
  ⟨reset_inv, rfl⟩
theorem witness_RstAbandonsTheCommand :
    ({ locatesA with turns := [.rst, .engine] } : State).turns = .rst :: [.engine] := rfl
theorem witness_OnlyAttachingChangesTheSource :
    step locatesA = .next locatedA ∧ (∀ len cells e q, locatesA.turns.head? ≠ some (.attach len cells e q)) ∧
      locatesA.sourceInUse = true ∧ State.reset.engine = .idle ∧
      (turnTo State.reset (.bus (.write 32 0x08#8 3#32))).engine = .run (encode .locate) 0#64 :=
  ⟨rfl, fun _ _ _ _ => nofun, rfl, rfl, by decide⟩
theorem witness_PositionCommandsReadNoSource :
    exec .nop State.reset = .next (State.reset.complete .ok) := rfl
theorem witness_OnlySeeksReadTheArgument :
    locatesA.engine = .run 3#32 0#64 ∧ exec .locate locatesA = .next locatedA := ⟨by decide, rfl⟩
theorem witness_RegistersFrozenWhileBusy :
    step { locatesA with turns := [.bus (.write 32 0x14#8 5#32)] } = .next { locatesA with argLo := 5#32 } ∧
      ({ locatesA with argLo := 5#32 } : State).busy = true := ⟨rfl, by decide⟩
theorem witness_ResultsChangeOnlyByPeekOrReset :
    step (running (onSource headerA 0) 4#32) = .next (peekAccepted (running (onSource headerA 0) 4#32) afterPeekA.hdr) ∧
      (peekAccepted (running (onSource headerA 0) 4#32) afterPeekA.hdr).resValid ≠
        (running (onSource headerA 0) 4#32).resValid := ⟨rfl, by decide⟩
theorem witness_PositionChangesOnlyByFourCommands :
    step (running (atPos 0 9) 1#32) = .next ((running (atPos 0 9) 1#32).setPos 9#64 |>.complete .ok) ∧
      ((running (atPos 0 9) 1#32).setPos 9#64 |>.complete .ok).pos ≠ (running (atPos 0 9) 1#32).pos := ⟨rfl, by decide⟩
theorem witness_BusReadsDeliverTheRegisters :
    ({ State.reset with turns := [.bus (.read 32 0x1C#8)] } : State).turns = .bus (.read 32 0x1C#8) :: [] ∧
      (0x1C#8 : BitVec 8) = 0x1C#8 ∧ (0#32 : Word).toNat = State.reset.pos.toNat % 2 ^ 32 := by decide
theorem witness_ReservedAndReadOnlyOffsets :
    (0x34#8).toNat % 4 = 0 ∧ 0x34 ≤ (0x34#8).toNat ∧ (0xFC#8).toNat % 4 = 0 ∧
      (0x1C ≤ (0x30#8).toNat ∧ (0x30#8).toNat ≤ 0x30) ∧
      ({ State.reset with turns := [.bus (.read 32 0x34#8)] } : State).turns = .bus (.read 32 0x34#8) :: [] ∧
      ({ State.reset with turns := [.bus (.write 32 0x30#8 1#32)] } : State).turns = .bus (.write 32 0x30#8 1#32) :: [] := by
  decide
theorem witness_OnlyAlignedWordAccesses :
    ({ State.reset with turns := [.bus (.read 16 0x02#8)] } : State).turns = .bus (.read 16 0x02#8) :: [] ∧
      ({ State.reset with turns := [.bus (.write 32 0x03#8 1#32)] } : State).turns = .bus (.write 32 0x03#8 1#32) :: [] := by
  decide
theorem witness_IntIsWriteOneToClear :
    ({ State.reset with turns := [.bus (.write 32 0x10#8 1#32)] } : State).turns = .bus (.write 32 0x10#8 1#32) :: [] ∧
      (1#32).toNat % 2 = 1 ∧ (0xFFFFFFFE#32).toNat % 2 = 0 := by decide
theorem witness_IrqFollowsTheEnable :
    ({ State.reset with turns := [.bus (.write 32 0x04#8 1#32)] } : State).turns = .bus (.write 32 0x04#8 1#32) :: [] := rfl
theorem witness_CmdWriteIsTakenOrDropped :
    ({ State.reset with turns := [.bus (.write 32 0x08#8 4#32)] } : State).turns = .bus (.write 32 0x08#8 4#32) :: [] ∧
      State.reset.busy = false ∧ locatesA.busy = true := by decide
theorem witness_ArgWritesLeaveTheRunningCommand :
    ({ locatesA with turns := [.bus (.write 32 0x14#8 4#32)] } : State).turns = .bus (.write 32 0x14#8 4#32) :: [] ∧
      ({ locatesA with turns := [.bus (.write 32 0x18#8 4#32)] } : State).turns = .bus (.write 32 0x18#8 4#32) :: [] :=
  ⟨rfl, rfl⟩
theorem witness_CompletionWinsOverTheClear :
    ({ locatesA with turns := [.bus (.write 32 0x10#8 1#32), .engine] } : State).turns =
        .bus (.write 32 0x10#8 1#32) :: .engine :: [] ∧
      locatesA.engine = .run 3#32 0#64 ∧ locatesA.stalled = false ∧ locatesA.allAnswered :=
  ⟨rfl, rfl, rfl, fun k _ => drawn_nil _ k⟩
/-- A first LOCATE accepted from State.reset. -/
def inUse : State := State.reset.accept 3#32
theorem inUse_inv : inUse.Inv :=
  ⟨fun _ => rfl, ⟨by decide, fun _ => rfl⟩, fun _ => ⟨rfl, rfl⟩, nofun, ⟨nofun, nofun, by decide⟩⟩
theorem witness_AttachingTheSource :
    ({ State.reset with turns := [.attach (2 ^ 64) [(0, 7#8), (0, 8#8)] (drawn []) (drawn [])] } : State).turns =
        .attach (2 ^ 64) [(0, 7#8), (0, 8#8)] (drawn []) (drawn []) :: [] ∧
      State.reset.sourceInUse = false ∧
      [((0 : Nat), 7#8), (0, 8#8)].findRev? (fun c => c.1 = 0) = some (0, 8#8) ∧
      [((0 : Nat), 7#8), (0, 8#8)].findRev? (fun c => c.1 = 1) = none ∧ inUse.sourceInUse = true ∧
      inUse.Inv ∧ inUse.engine = .run (encode .locate) 0#64 ∧ 2 ^ 64 < 2 ^ 64 + 1 :=
  ⟨rfl, rfl, by decide, by decide, rfl, inUse_inv, rfl, by decide⟩
/-- 70_reset_and_hazards.md R273, R279: a first LOCATE, abandoned by `rst` before it reads, still puts the source in use. -/
theorem test_attach_after_rst :
    step { inUse with turns := [.rst, .attach 1 [(0, 1#8)] (drawn []) (drawn [])] } =
        .next { State.reset with sourceInUse := true, turns := [.attach 1 [(0, 1#8)] (drawn []) (drawn [])] } ∧
      step { State.reset with sourceInUse := true, turns := [.attach 1 [(0, 1#8)] (drawn []) (drawn [])] } =
        .refused .sourceChanged := ⟨rfl, rfl⟩
/-- 20_memory.md R69: a device that fails for good answers every read with an error. -/
theorem test_device_fails_for_good (k : Nat) :
    (Source.mk 9 [] { listed := [false], later := .always } (drawn [])).errRead (k + 1) = true := rfl
/-- 20_memory.md R69: the draws of State.reset's source are free, one for each read. -/
theorem test_reset_draws_are_free (k : Nat) : State.reset.source.errRead k = Config.srcErr k := rfl
/-- A host at the first line of a program. -/
def atLine (p : List AsmLine) : State := { State.reset with agent := { prog := p, line := 0, seen := [] } }
theorem witness_HostLinesActOnTheWindow :
    (atLine [.wr .ctrl 1#32]).engine = .idle ∧ (atLine [.wr .ctrl 1#32]).turns = [] ∧
      (atLine [.wr .ctrl 1#32]).agent.prog[0]? = some (.wr .ctrl 1#32) ∧ (atLine [.rd .id]).agent.prog[0]? = some (.rd .id) ∧
      (atLine [.wait]).agent.prog[0]? = some .wait ∧ findLabel 5 [.b 5, .label 5] = some 1 ∧
      (atLine [.bErr 5, .label 5]).agent.prog[0]? = some (.bErr 5) ∧ ({ State.reset with err := 1#4 } : State).err ≠ 0#4 ∧
      (atLine [.bEq .err 7#32 4, .label 4]).agent.prog[0]? = some (.bEq .err 7#32 4) ∧
      lastRead FieldName.err.place.1 [(.status, 0x72#32)] = some 0x72#32 ∧
      (0x72#32).toNat / 2 ^ FieldName.err.place.2.1 % 2 ^ FieldName.err.place.2.2 = (7#32).toNat ∧
      (0x62#32).toNat / 2 ^ FieldName.err.place.2.1 % 2 ^ FieldName.err.place.2.2 ≠ (7#32).toNat ∧
      findLabel 4 [.bEq .err 7#32 4, .label 4] = some 1 ∧ (atLine [.halt]).agent.prog[0]? = some .halt := by
  decide
theorem witness_HostWaitRepeatsWhileBusy :
    let s : State := { locatesA with turns := [.host], agent := { prog := [.wait], line := 0, seen := [] } }
    s.busy = true ∧ s.turns = .host :: [] ∧ s.agent.prog[s.agent.line]? = some .wait := by decide
theorem witness_SeekPseudoInstructionsWriteTheOperand :
    (-2 : Int) ^ 63 ≤ -2 ^ 63 ∧ (2 : Int) ^ 63 - 1 < 2 ^ 63 := by decide

end Sys2Proof.Tests
end

/-! SUPPORT. Proofs of the statements about the state (10_state.md): what running a command word can do, the invariant, the frame
of POS and the results, the words of the register window and the accesses to it. -/

namespace Sys2Proof.Machine

/-! ### What running a command word can do -/

/-- Splitting a word into its fields and joining them gives the word back (30_encoding.md R91). -/
theorem toWord_ofWord (c : Word) : (Cmd32.ofWord c).toWord = c := by
  apply BitVec.eq_of_toNat_eq
  simp only [Cmd32.toWord, Cmd32.ofWord, append_toNat, extract_toNat]
  omega

/-- Only the opcode of a command is mapped to it (30_encoding.md R92). -/
theorem opcode_of_decodeOp {op : BitVec 4} {i : Instr} (h : decodeOp op = some i) : op = opcode i := by
  revert op
  cases i <;> decide

/-- A word that decodes to a command is the word of that command (30_encoding.md R95). -/
theorem encode_of_decode {c : Word} {i : Instr} (h : decode c = .ok i) : c = encode i := by
  unfold decode at h
  split at h
  · rename_i hrsv
    split at h
    · rename_i j hop
      cases h
      rw [← toWord_ofWord c, encode, ← opcode_of_decodeOp hop, ← hrsv]
    · cases h
  · cases h

/-- A code that commands complete with (60_exceptions.md R238); `SyncNotFound` and `InvalidAudioObjectType` are none. -/
abbrev StatusCode.Produced (code : StatusCode) : Prop :=
  code.bits ∈ [0#4, 1#4, 3#4, 5#4, 6#4, 7#4]

/-- What the engine can do to the state `s` when it runs the word `c`. Every case but `hung` completes the command. -/
inductive WordEffect (c : Word) (s : State) : State → Prop where
  /-- Only the completion bookkeeping is written (60_exceptions.md R240). -/
  | completed (code : StatusCode) : code.Produced → WordEffect c s (s.complete code)
  /-- A position command moves POS (42_position_and_control.md R219). -/
  | moved (p : Pos) : c = encode .seekAbs ∨ c = encode .seekRel ∨ c = encode .advance →
      WordEffect c s ((s.setPos p).complete .ok)
  /-- LOCATE completes (40_locate.md R133). -/
  | located (p n : Nat) (code : StatusCode) : c = encode .locate → code.Produced →
      WordEffect c s (located s p n code)
  /-- PEEK fails (41_peek.md R170). -/
  | peekCleared (code : StatusCode) : c = encode .peek → code.Produced → WordEffect c s (peekCleared s code)
  /-- PEEK accepts the header of the 7 bytes at POS (41_peek.md R167). -/
  | peekAccepted (h : Header) : c = encode .peek → s.pos.toNat + 7 ≤ s.source.len.val →
      checkHeader (extractFields (headerWord (s.source.bytes s.pos.toNat 7))) = .ok h →
      WordEffect c s (peekAccepted s h)
  /-- A read of LOCATE or PEEK is never answered (70_reset_and_hazards.md R282). -/
  | hung (w : Vector Byte 9) (p : Pos) (n : Nat) : c = encode .locate ∨ c = encode .peek →
      WordEffect c s (scanning s w p n).stall

theorem execSeekRel_effect (s : State) :
    ∃ t, execSeekRel s = .next t ∧ WordEffect (encode .seekRel) s t := by
  simp only [execSeekRel]
  split
  · exact ⟨_, rfl, .moved _ (.inr (.inl rfl))⟩
  · exact ⟨_, rfl, .completed .ioFailure (by decide)⟩

theorem execAdvance_effect (s : State) :
    ∃ t, execAdvance s = .next t ∧ WordEffect (encode .advance) s t := by
  simp only [execAdvance]
  split
  · split
    · exact ⟨_, rfl, .moved _ (.inr (.inr rfl))⟩
    · exact ⟨_, rfl, .completed .ioFailure (by decide)⟩
  · exact ⟨_, rfl, .completed .noHeader (by decide)⟩

theorem execLocate_effect (s : State) :
    ∃ t, execLocate s = .next t ∧ WordEffect (encode .locate) s t := by
  obtain ⟨j, -, ⟨q, -, -, -, -, -, he⟩ | ⟨-, -, he⟩ | ⟨-, w, p, he⟩⟩ := execLocate_cases s
  · exact ⟨_, he, .located _ _ .ok rfl (by decide)⟩
  · exact ⟨_, he, .located _ _ .ioFailure rfl (by decide)⟩
  · exact ⟨_, he, .hung w p _ (.inl rfl)⟩

theorem execPeek_effect (s : State) :
    ∃ t, execPeek s = .next t ∧ WordEffect (encode .peek) s t := by
  obtain ⟨-, he⟩ | ⟨-, -, he⟩ | ⟨-, hin, -, ⟨c, hc, -, he⟩ | ⟨h, hh, he⟩⟩ := execPeek_cases s
  · exact ⟨_, he, .hung s.wbuf s.ws 1 (.inr rfl)⟩
  · exact ⟨_, he, .peekCleared .ioFailure rfl (by decide)⟩
  · refine ⟨_, he, .peekCleared c rfl ?_⟩
    obtain rfl | rfl := hc <;> decide
  · exact ⟨_, he, .peekAccepted h rfl hin hh⟩

/-- Every command answers a next state, with one of the effects of its word. -/
theorem exec_effect (i : Instr) (s : State) : ∃ t, exec i s = .next t ∧ WordEffect (encode i) s t := by
  cases i with
  | nop => exact ⟨_, rfl, .completed .ok (by decide)⟩
  | seekAbs => exact ⟨_, rfl, .moved _ (.inl rfl)⟩
  | seekRel => exact execSeekRel_effect s
  | locate => exact execLocate_effect s
  | peek => exact execPeek_effect s
  | advance => exact execAdvance_effect s

/-- The same for every word, legal or not (42_position_and_control.md R215). -/
theorem runWord_effect (c : Word) (s : State) : ∃ t, runWord c s = .next t ∧ WordEffect c s t := by
  obtain ⟨i, hd, hr⟩ | ⟨e, -, hr⟩ := runWord_cases c s
  · rw [hr, encode_of_decode hd]
    exact exec_effect i s
  · exact ⟨_, hr, .completed .illegalCommand (by decide)⟩

/-- The engine's turn leaves the state as it is, or runs the word it took. -/
theorem engineTurn_effect {s t : State} (h : engineTurn s = .next t) :
    t = s ∨ ∃ c a, s.engine = .run c a ∧ s.stalled = false ∧ WordEffect c s t := by
  obtain ⟨-, he⟩ | ⟨c, a, -, -, he⟩ | ⟨c, a, hrun, hst, he⟩ := engineTurn_cases s
  · exact .inl (by rw [he] at h; cases h; rfl)
  · exact .inl (by rw [he] at h; cases h; rfl)
  · obtain ⟨u, hu, heff⟩ := runWord_effect c s
    rw [he, hu] at h
    cases h
    exact .inr ⟨c, a, hrun, hst, heff⟩

/-- What one step can do, its turn acting on `s` with some schedule left: no other field differs before the turn. -/
theorem step_kind {s t : State} (h : step s = .next t) : ∃ ts, StepKind s { s with turns := ts } t := by
  obtain ⟨u, rfl | rfl, hkind⟩ := step_cases h
  · exact ⟨u.turns, hkind⟩
  · exact ⟨s.turns.tail, hkind⟩

/-! ### The invariant, operation by operation -/

/-- The fields the invariant speaks of. -/
def State.invFields (s : State) :
    Engine × Bool × BitVec 4 × Bool × Pos × Header × Source × Bool × Nat × Bool :=
  (s.engine, s.done, s.err, s.resValid, s.hdrPos, s.hdr, s.source, s.sourceInUse, s.reads, s.stalled)

/-- The invariant speaks of no other field. -/
theorem State.Inv.congr {s t : State} (h : s.Inv) (he : t.invFields = s.invFields) : t.Inv := by
  cases s
  cases t
  simp only [State.invFields, Prod.mk.injEq] at he
  obtain ⟨rfl, rfl, rfl, rfl, rfl, rfl, rfl, rfl, rfl, rfl⟩ := he
  exact ⟨h.exclusive, h.err, h.cleared, h.decoded, h.records⟩

/-- Until the source is in use there is no result, no read and no command that reads (log 13). -/
theorem State.Inv.unused {s : State} (h : s.Inv) (hu : s.sourceInUse = false) :
    s.resValid = false ∧ s.reads = 0 ∧ s.readsSource = false :=
  h.records.1 hu

/-- Only a running engine waits for a read. -/
theorem State.Inv.waits {s : State} (h : s.Inv) : s.stalled = true → s.busy = true :=
  h.records.2.1

/-- The source is in canonical form. -/
theorem State.Inv.sourceWf {s : State} (h : s.Inv) : s.source.wf = true :=
  h.records.2.2

/-- The source is in use while a command that reads it runs. -/
theorem State.Inv.inUse {s : State} {c : Word} {a : BitVec 64} (h : s.Inv) (hrun : s.engine = .run c a)
    (hc : c = encode .locate ∨ c = encode .peek) : s.sourceInUse = true := by
  by_contra hu
  obtain ⟨-, -, hreads⟩ := h.unused (eq_false_of_ne_true hu)
  obtain rfl | rfl := hc <;> simp [State.readsSource, hrun, wordReadsSource] at hreads

/-- Reads are counted while the source is in use. -/
theorem State.Inv.setReads {s : State} (h : s.Inv) (hu : s.sourceInUse = true) (n : Nat) :
    ({ s with reads := n } : State).Inv :=
  ⟨h.exclusive, h.err, h.cleared, h.decoded, fun hf => absurd (hu.symm.trans hf) nofun, h.waits, h.sourceWf⟩

/-- Completion with a code that is produced (60_exceptions.md R240). -/
theorem State.Inv.complete {s : State} (h : s.Inv) (hs : s.stalled = false) (code : StatusCode) (hc : code.Produced) :
    (s.complete code).Inv := by
  refine ⟨nofun, ⟨hc, nofun⟩, h.cleared, h.decoded, fun hu => ?_, fun hw => absurd (hs.symm.trans hw) nofun, h.sourceWf⟩
  obtain ⟨hvalid, hreads, -⟩ := h.unused hu
  exact ⟨hvalid, hreads, rfl⟩

/-- The failure writes of PEEK (41_peek.md R170). -/
theorem State.Inv.clearResult {s : State} (h : s.Inv) : s.clearResult.Inv := by
  refine ⟨h.exclusive, h.err, fun _ => ⟨rfl, rfl⟩, nofun, fun hu => ?_, h.waits, h.sourceWf⟩
  obtain ⟨-, hreads, hword⟩ := h.unused hu
  exact ⟨rfl, hreads, hword⟩

/-- The success writes of PEEK, when they are the header of the 7 bytes at `p` (41_peek.md R167, 10_state.md R35). -/
theorem State.Inv.setResult {s : State} (h : s.Inv) (hu : s.sourceInUse = true) {p : Pos} {hdr : Header}
    (hin : p.toNat + 7 ≤ s.source.len.val)
    (hok : checkHeader (extractFields (headerWord (s.source.bytes p.toNat 7))) = .ok hdr) : (s.setResult p hdr).Inv :=
  ⟨h.exclusive, h.err, nofun, fun _ => ⟨hin, hok, checkHeader_accepted hok⟩,
    fun hf => absurd (hu.symm.trans hf) nofun, h.waits, h.sourceWf⟩

/-- Waiting for a read while a command runs (70_reset_and_hazards.md R282). -/
theorem State.Inv.stall {s : State} (h : s.Inv) (hb : s.busy = true) : s.stall.Inv :=
  ⟨h.exclusive, h.err, h.cleared, h.decoded, h.unused, fun _ => hb, h.sourceWf⟩

/-- Acceptance of a word (10_state.md R41). -/
theorem State.Inv.accept {s : State} (h : s.Inv) (c : Word) : (s.accept c).Inv := by
  refine ⟨fun _ => rfl, ⟨List.mem_cons_self, fun _ => rfl⟩, h.cleared, h.decoded, fun hu => ?_, fun _ => rfl, h.sourceWf⟩
  obtain ⟨hnot, hword⟩ : s.sourceInUse = false ∧ wordReadsSource c = false := by simpa using hu
  obtain ⟨hvalid, hreads, -⟩ := h.unused hnot
  exact ⟨hvalid, hreads, hword⟩

/-- `rst` (70_reset_and_hazards.md R270): the register values of reset, beside a source that stays. -/
theorem State.Inv.afterRst {s : State} (h : s.Inv) : s.afterRst.Inv := by
  refine ⟨nofun, ⟨List.mem_cons_self, fun _ => rfl⟩, fun _ => ⟨rfl, rfl⟩, nofun, fun hu => ?_, nofun, h.sourceWf⟩
  obtain ⟨-, hreads, -⟩ := h.unused hu
  exact ⟨rfl, hreads, rfl⟩

/-- Attaching a source while none is in use, so that no result rests on the old one (70_reset_and_hazards.md R273). -/
theorem State.Inv.setSource {s : State} (h : s.Inv) (hu : s.sourceInUse = false) (len : Fin 18446744073709551617)
    (cells : List Host.Cell) (errDraws silentDraws : Draws) : (s.setSource len cells errDraws silentDraws).Inv := by
  obtain ⟨hvalid, -, -⟩ := h.unused hu
  exact ⟨h.exclusive, h.err, h.cleared, fun hv => absurd (hvalid.symm.trans hv) nofun, h.unused, h.waits,
    placeCells_wf len.val cells⟩

/-- The invariant is kept by whatever a word does on the engine that runs it. -/
theorem WordEffect.inv {s t : State} {c : Word} {a : BitVec 64} (heff : WordEffect c s t) (h : s.Inv)
    (hrun : s.engine = .run c a) (hs : s.stalled = false) : t.Inv := by
  cases heff with
  | completed code hc => exact h.complete hs code hc
  | moved p _ => exact (h.complete hs .ok (by decide)).congr rfl
  | located p n code hword hc =>
    have hu := h.inUse hrun (.inl hword)
    exact ((h.setReads hu (s.reads + n)).complete hs code hc).congr rfl
  | peekCleared code hword hc =>
    have hu := h.inUse hrun (.inr hword)
    exact ((h.setReads hu (s.reads + 1)).clearResult.complete hs code hc).congr rfl
  | peekAccepted hdr hword hin hok =>
    have hu := h.inUse hrun (.inr hword)
    exact (((h.setReads hu (s.reads + 1)).setResult hu hin hok).complete hs .ok (by decide)).congr rfl
  | hung w p n hword =>
    have hu := h.inUse hrun hword
    exact ((h.setReads hu (s.reads + n)).stall ((busy_iff s).2 ⟨c, a, hrun⟩)).congr rfl

/-- The engine's turn keeps the invariant. -/
theorem engineTurn_inv {s t : State} (ht : engineTurn s = .next t) (h : s.Inv) : t.Inv := by
  obtain rfl | ⟨c, a, hrun, hs, heff⟩ := engineTurn_effect ht
  · exact h
  · exact heff.inv h hrun hs

/-- The host's turn and a bus access keep the invariant. -/
theorem HostEffect.inv {s t : State} (hh : HostEffect s t) (h : s.Inv) : t.Inv := by
  obtain ⟨u, v, ag, hw⟩ := hh
  have hu : u.Inv := by
    cases hw with
    | none => exact h
    | ctrl b => exact h.congr rfl
    | ack => exact h.congr rfl
    | argLo v => exact h.congr rfl
    | argHi v => exact h.congr rfl
    | cmd c _ => exact h.accept c
  exact hu.congr rfl

/-- Settles O36: the state with its turn taken has the invariant, and each kind of turn keeps it. -/
theorem everyStepKeepsTheInvariant : Obligations.EveryStepKeepsTheInvariant := by
  intro s t h hstep
  obtain ⟨ts, hkind⟩ := step_kind hstep
  have hinv : ({ s with turns := ts } : State).Inv := h.congr rfl
  cases hkind with
  | engine _ _ ht => exact engineTurn_inv ht hinv
  | host _ hh => exact hh.inv hinv
  | rst _ => exact hinv.afterRst
  | attach len cells errDraws silentDraws _ hnot => exact hinv.setSource hnot len cells errDraws silentDraws

/-- Settles O37: every clause is about values that are 0, and the empty source is in canonical form. -/
theorem resetHasTheInvariant : Obligations.ResetHasTheInvariant :=
  ⟨nofun, ⟨List.mem_cons_self, fun _ => rfl⟩, fun _ => ⟨rfl, rfl⟩, nofun, fun _ => ⟨rfl, rfl, rfl⟩, nofun,
    Source.empty_wf⟩

/-- Settles O38, each value of the table of R43 by evaluation. -/
theorem resetValues : Obligations.ResetValues := by
  unfold Obligations.ResetValues
  decide

/-! ### What leaves POS and the results alone -/

/-- The result registers hold their values. -/
structure SameResults (s t : State) : Prop where
  hdrPos : t.hdrPos = s.hdrPos
  hdr : t.hdr = s.hdr
  resValid : t.resValid = s.resValid

/-- POS and the result registers hold their values. -/
structure SamePosResults (s t : State) : Prop extends SameResults s t where
  pos : t.pos = s.pos

theorem SamePosResults.frozen {s t : State} (h : SamePosResults s t) :
    t.pos = s.pos ∧ t.hdrPos = s.hdrPos ∧ t.hdr = s.hdr ∧ t.resValid = s.resValid :=
  ⟨h.pos, h.hdrPos, h.hdr, h.resValid⟩

theorem SameResults.not_changed {s t : State} (h : SameResults s t) :
    ¬ (t.hdrPos ≠ s.hdrPos ∨ t.hdr ≠ s.hdr ∨ t.resValid ≠ s.resValid) := by
  simp [h.hdrPos, h.hdr, h.resValid]

/-- No host access writes POS or the results (10_state.md R30, R32). -/
theorem HostEffect.samePosResults {s t : State} (h : HostEffect s t) : SamePosResults s t := by
  obtain ⟨u, v, ag, hw⟩ := h
  cases hw <;> exact ⟨⟨rfl, rfl, rfl⟩, rfl⟩

/-- A word writes POS and the results only where it completes (10_state.md R42). -/
theorem WordEffect.samePosResults_or_completed {c : Word} {s t : State} (h : WordEffect c s t) :
    SamePosResults s t ∨ t.engine = .idle ∧ t.done = true := by
  cases h with
  | hung w p n _ => exact .inl ⟨⟨rfl, rfl, rfl⟩, rfl⟩
  | completed => exact .inr ⟨rfl, rfl⟩
  | moved => exact .inr ⟨rfl, rfl⟩
  | located => exact .inr ⟨rfl, rfl⟩
  | peekCleared => exact .inr ⟨rfl, rfl⟩
  | peekAccepted => exact .inr ⟨rfl, rfl⟩

/-- A word other than PEEK's leaves the results (10_state.md R35). -/
theorem WordEffect.sameResults_of_ne_peek {c : Word} {s t : State} (h : WordEffect c s t) (hc : c ≠ encode .peek) :
    SameResults s t := by
  cases h with
  | peekCleared code hword _ => exact absurd hword hc
  | peekAccepted hdr hword _ _ => exact absurd hword hc
  | completed => exact ⟨rfl, rfl, rfl⟩
  | moved => exact ⟨rfl, rfl, rfl⟩
  | located => exact ⟨rfl, rfl, rfl⟩
  | hung => exact ⟨rfl, rfl, rfl⟩

/-- A changed result means that the word was PEEK's and that it completed. -/
theorem WordEffect.peek_of_changed {c : Word} {s t : State} (h : WordEffect c s t)
    (hne : t.hdrPos ≠ s.hdrPos ∨ t.hdr ≠ s.hdr ∨ t.resValid ≠ s.resValid) :
    c = encode .peek ∧ t.engine = .idle ∧ t.done = true := by
  refine ⟨?_, ?_⟩
  · by_contra hc
    exact (h.sameResults_of_ne_peek hc).not_changed hne
  · obtain hsame | hdone := h.samePosResults_or_completed
    · exact absurd hne hsame.not_changed
    · exact hdone

/-- Settles O43: an engine's turn that writes POS or the results ends idle, as a reset does; no other turn writes them. -/
theorem registersFrozenWhileBusy : Obligations.RegistersFrozenWhileBusy := by
  intro s t hstep hbusy
  have not_idle : t.engine ≠ .idle := fun hidle => by
    rw [(busy_false_iff t).2 hidle] at hbusy
    cases hbusy
  obtain ⟨ts, hkind⟩ := step_kind hstep
  cases hkind with
  | engine _ _ ht =>
    obtain rfl | ⟨c, a, -, -, heff⟩ := engineTurn_effect ht
    · exact ⟨rfl, rfl, rfl, rfl⟩
    · obtain hsame | ⟨hidle, -⟩ := heff.samePosResults_or_completed
      · exact hsame.frozen
      · exact absurd hidle not_idle
  | host _ hh => exact hh.samePosResults.frozen
  | rst _ => exact absurd rfl not_idle
  | attach => exact ⟨rfl, rfl, rfl, rfl⟩

/-- Settles O44: besides a reset, only the engine's turn writes the results, and there only PEEK's word as it completes. -/
theorem resultsChangeOnlyByPeekOrReset : Obligations.ResultsChangeOnlyByPeekOrReset := by
  intro s t hstep hne
  obtain ⟨ts, hkind⟩ := step_kind hstep
  cases hkind with
  | engine _ hturn ht =>
    obtain rfl | ⟨c, a, hrun, hs, heff⟩ := engineTurn_effect ht
    · exact absurd hne (SameResults.not_changed ⟨rfl, rfl, rfl⟩)
    · obtain ⟨rfl, hidle, hdone⟩ := heff.peek_of_changed hne
      exact .inr ⟨hturn, hs, ⟨a, hrun⟩, hidle, hdone⟩
  | host _ hh => exact absurd hne hh.samePosResults.not_changed
  | rst hrst => exact .inl hrst
  | attach => exact absurd hne (SameResults.not_changed ⟨rfl, rfl, rfl⟩)

/-! ### The turns of the schedule -/

/-- An entry of the schedule is taken, once (log 2). -/
theorem step_of_turn {s : State} {turn : Turn} {rest : List Turn} (h : s.turns = turn :: rest) :
    step s = takeTurn turn { s with turns := rest } := by
  simp only [step, nextTurn, h, State.popTurn, List.tail_cons]

/-- With nothing scheduled the engine moves while it runs, else the host (log 2). -/
theorem step_of_no_turns {s : State} (h : s.turns = []) :
    step s = if s.busy then engineTurn s else hostTurn s := by
  simp only [step, nextTurn, h, freeTurn]

/-- The engine's turn on a word that decodes, with no read outstanding (30_encoding.md R95). -/
theorem engineTurn_of_decode {s : State} {c : Word} {a : BitVec 64} {i : Instr} (hrun : s.engine = .run c a)
    (hs : s.stalled = false) (hd : decode c = .ok i) : engineTurn s = exec i s := by
  simp [engineTurn, hrun, hs, runWord, hd]

/-- Settles O8: either way the engine has the turn, and it runs the decoded command. -/
theorem stepRunsTheDecodedCommand : Obligations.StepRunsTheDecodedCommand := by
  intro s c a i hrun hs hd
  refine ⟨fun hturns => ?_, fun rest hturns => ?_⟩
  · rw [step_of_no_turns hturns, if_pos ((busy_iff s).2 ⟨c, a, hrun⟩)]
    exact engineTurn_of_decode hrun hs hd
  · rw [step_of_turn hturns]
    exact engineTurn_of_decode hrun hs hd

/-- Settles O11: the turn taken is the entry's, and with no entry left BUSY decides. -/
theorem scheduleGivesEachAgentItsTurn : Obligations.ScheduleGivesEachAgentItsTurn := by
  intro s rest
  refine ⟨step_of_turn, step_of_turn, fun a => step_of_turn, step_of_turn, fun len cells e q => step_of_turn, ?_, ?_⟩
  · intro hturns hrun
    rw [step_of_no_turns hturns, if_pos (eq_true_of_ne_false (mt (busy_false_iff s).1 hrun))]
  · intro hturns hidle
    rw [step_of_no_turns hturns, if_neg (ne_true_of_eq_false ((busy_false_iff s).2 hidle))]

/-! ### The words of the register window -/

/-- Settles O7: the reserved bits between the fields add nothing to the sum. -/
theorem resultWordsHoldTheFields : Obligations.ResultWordsHoldTheFields := by
  intro h
  constructor
  · simp only [Header.f0, append_toNat, BitVec.toNat_ofNat]
    omega
  · simp only [Header.f1, append_toNat, BitVec.toNat_ofNat]
    omega

theorem ctrlWord_toNat (s : State) : s.ctrlWord.toNat = s.ie.toNat := by
  simp only [State.ctrlWord, append_toNat, BitVec.toNat_ofBool, BitVec.toNat_ofNat]
  omega

theorem intWord_toNat (s : State) : s.intWord.toNat = s.donePend.toNat := by
  simp only [State.intWord, append_toNat, BitVec.toNat_ofBool, BitVec.toNat_ofNat]
  omega

theorem statusWord_toNat (s : State) :
    s.statusWord.toNat = s.busy.toNat + 2 * s.done.toNat + 4 * s.resValid.toNat + 16 * s.err.toNat := by
  simp only [State.statusWord, append_toNat, BitVec.toNat_ofBool, BitVec.toNat_ofNat]
  omega

/-- Settles O46, word by word. -/
theorem statusWordHoldsTheFlags : Obligations.StatusWordHoldsTheFlags :=
  fun s => ⟨statusWord_toNat s, ctrlWord_toNat s, intWord_toNat s⟩

/-! ### Accesses to the register window -/

/-- The accesses that are answered: 32 bits wide and aligned (10_state.md R22). -/
theorem accessOk_iff {w : Nat} {off : BitVec 8} : accessOk w off = true ↔ w = 32 ∧ off.toNat % 4 = 0 := by
  simp [accessOk]

/-- Only the offset of a register is mapped to it (10_state.md R21). -/
theorem offset_of_ofOffset {off : BitVec 8} {r : RegName} (h : RegName.ofOffset off = some r) : off = r.offset := by
  revert off
  cases r <;> decide

/-- Every register stands at a multiple of 4, at 0x30 or below. -/
theorem RegName.offset_aligned (r : RegName) : r.offset.toNat % 4 = 0 := by
  cases r <;> rfl

theorem RegName.offset_le (r : RegName) : r.offset.toNat ≤ 0x30 := by
  cases r <;> decide

/-- What a register reads as does not depend on the schedule. -/
theorem readReg_turns (s : State) (rest : List Turn) (r : RegName) :
    ({ s with turns := rest } : State).readReg r = s.readReg r := by
  cases r <;> rfl

/-- An aligned 32-bit read delivers what its offset reads as, and changes nothing else. -/
theorem step_busRead {s : State} {rest : List Turn} {off : BitVec 8} (hoff : off.toNat % 4 = 0)
    (h : s.turns = .bus (.read 32 off) :: rest) :
    step s = .next { s with turns := rest, rdata := ({ s with turns := rest } : State).readOffset off } := by
  rw [step_of_turn h, takeTurn, busAccess, if_pos (accessOk_iff.2 ⟨rfl, hoff⟩)]
  rfl

/-- An aligned 32-bit write does what a write at its offset does. -/
theorem step_busWrite {s : State} {rest : List Turn} {off : BitVec 8} {v : Word} (hoff : off.toNat % 4 = 0)
    (h : s.turns = .bus (.write 32 off v) :: rest) :
    step s = .next (({ s with turns := rest } : State).writeOffset off v) := by
  rw [step_of_turn h, takeTurn, busAccess, if_pos (accessOk_iff.2 ⟨rfl, hoff⟩)]

/-- A write of a register, at its own offset. -/
theorem step_regWrite {s : State} {rest : List Turn} {v : Word} (r : RegName)
    (h : s.turns = .bus (.write 32 r.offset v) :: rest) :
    step s = .next (({ s with turns := rest } : State).writeReg r v) := by
  rw [step_busWrite r.offset_aligned h, State.writeOffset_offset]

/-- A read of a register, at its own offset. -/
theorem step_regRead {s : State} {rest : List Turn} (r : RegName) (h : s.turns = .bus (.read 32 r.offset) :: rest) :
    step s = .next { s with turns := rest, rdata := s.readReg r } := by
  rw [step_busRead r.offset_aligned h, State.readOffset_offset, readReg_turns]

/-- Settles O47: each of the thirteen values is the register's word, and a read of the register delivers it. -/
theorem busReadsDeliverTheRegisters : Obligations.BusReadsDeliverTheRegisters := by
  intro s rest off v hturns hv
  obtain ⟨r, rfl, rfl⟩ : ∃ r : RegName, off = r.offset ∧ v = s.readReg r := by
    have lo (p : Pos) : (p.extractLsb' 0 32).toNat = p.toNat % 2 ^ 32 := by simp
    have hi (p : Pos) : (p.extractLsb' 32 32).toNat = p.toNat / 2 ^ 32 := by
      have := p.isLt
      rw [extract_toNat]
      omega
    rcases hv with ⟨ho, hv⟩ | ⟨ho, hv⟩ | ⟨ho, hv⟩ | ⟨ho, hv⟩ | ⟨ho, hv⟩ | ⟨ho, hv⟩ | ⟨ho, hv⟩ |
      ⟨ho, hv⟩ | ⟨ho, hv⟩ | ⟨ho, hv⟩ | ⟨ho, hv⟩ | ⟨ho, hv⟩ | ⟨ho, hv⟩
    · exact ⟨.id, ho, hv⟩
    · exact ⟨.ctrl, ho, BitVec.eq_of_toNat_eq (hv.trans (ctrlWord_toNat s).symm)⟩
    · exact ⟨.cmd, ho, hv⟩
    · exact ⟨.status, ho, hv⟩
    · exact ⟨.int, ho, BitVec.eq_of_toNat_eq (hv.trans (intWord_toNat s).symm)⟩
    · exact ⟨.argLo, ho, hv⟩
    · exact ⟨.argHi, ho, hv⟩
    · exact ⟨.posLo, ho, BitVec.eq_of_toNat_eq (hv.trans (lo s.pos).symm)⟩
    · exact ⟨.posHi, ho, BitVec.eq_of_toNat_eq (hv.trans (hi s.pos).symm)⟩
    · exact ⟨.hdrPosLo, ho, BitVec.eq_of_toNat_eq (hv.trans (lo s.hdrPos).symm)⟩
    · exact ⟨.hdrPosHi, ho, BitVec.eq_of_toNat_eq (hv.trans (hi s.hdrPos).symm)⟩
    · exact ⟨.hdrF0, ho, hv⟩
    · exact ⟨.hdrF1, ho, hv⟩
  exact step_regRead r hturns

/-- No register stands above 0x30 (10_state.md R23). -/
theorem ofOffset_reserved {off : BitVec 8} (h : 0x34 ≤ off.toNat) : RegName.ofOffset off = none := by
  cases hr : RegName.ofOffset off with
  | none => rfl
  | some r =>
    have hle := r.offset_le
    rw [← offset_of_ofOffset hr] at hle
    omega

/-- A write to a reserved offset or to a read-only register is ignored (10_state.md R21, R23). -/
theorem writeOffset_ignored (s : State) {off : BitVec 8} (v : Word)
    (h : 0x34 ≤ off.toNat ∨ off.toNat = 0x00 ∨ off.toNat = 0x0C ∨ (0x1C ≤ off.toNat ∧ off.toNat ≤ 0x30)) :
    s.writeOffset off v = s := by
  cases hr : RegName.ofOffset off with
  | none => simp only [State.writeOffset, hr]
  | some r =>
    obtain rfl := offset_of_ofOffset hr
    rw [State.writeOffset_offset]
    cases r with
    | ctrl => simp [RegName.offset] at h
    | cmd => simp [RegName.offset] at h
    | int => simp [RegName.offset] at h
    | argLo => simp [RegName.offset] at h
    | argHi => simp [RegName.offset] at h
    | _ => rfl

/-- Settles O48: no register answers at a reserved offset, and a read-only one takes no write. -/
theorem reservedAndReadOnlyOffsets : Obligations.ReservedAndReadOnlyOffsets := by
  intro s rest off v hoff
  refine ⟨fun hres hturns => ?_, fun hign hturns => ?_⟩
  · rw [step_busRead hoff hturns, State.readOffset, ofOffset_reserved hres]
  · rw [step_busWrite hoff hturns, writeOffset_ignored _ v hign]

/-- Settles O49: the refusal is the failing arm of the test of width and offset, for reads and for writes. -/
theorem onlyAlignedWordAccesses : Obligations.OnlyAlignedWordAccesses := by
  intro s rest w off v
  have hbad : accessOk w off = false ↔ w ≠ 32 ∨ off.toNat % 4 ≠ 0 := by
    rw [← Bool.not_eq_true, accessOk_iff, not_and_or]
  refine ⟨fun hturns => ?_, fun hturns => ?_⟩
  · rw [step_of_turn hturns, takeTurn, busAccess, ← hbad]
    cases accessOk w off <;> simp
  · rw [step_of_turn hturns, takeTurn, busAccess, ← hbad]
    cases accessOk w off <;> simp

/-- Bit 0 of a word, as a number. -/
theorem bit0_toNat (v : Word) : v[0].toNat = v.toNat % 2 := by
  rw [BitVec.getElem_eq_testBit_toNat, Nat.testBit_zero]
  obtain h | h := Nat.mod_two_eq_zero_or_one v.toNat <;> simp [h]

/-- Settles O50: INT looks at bit 0 of the word written, and only at it. -/
theorem intIsWriteOneToClear : Obligations.IntIsWriteOneToClear := by
  intro s rest v hturns
  have hbit := bit0_toNat v
  rw [step_regWrite .int hturns, State.writeReg]
  refine ⟨fun hone => ?_, fun hzero => ?_⟩
  · rw [if_pos (by simpa [hone] using hbit)]
  · rw [if_neg (by simpa [hzero] using hbit)]

/-- Settles O51: the level is computed from the written bit at once. -/
theorem irqFollowsTheEnable : Obligations.IrqFollowsTheEnable := by
  intro s rest v hturns
  have hbit := bit0_toNat v
  refine ⟨_, step_regWrite .ctrl hturns, rfl, hbit, ?_⟩
  simp [State.writeReg, State.irq, ← hbit]

/-- A word written to CMD while a command runs is dropped (10_state.md R41). -/
theorem writeCmd_busy {s : State} (c : Word) (h : s.busy = true) : s.writeCmd c = s :=
  if_pos h

/-- A word written to CMD of an idle engine is accepted (10_state.md R41). -/
theorem writeCmd_idle {s : State} (c : Word) (h : s.busy = false) : s.writeCmd c = s.accept c :=
  if_neg (ne_true_of_eq_false h)

/-- Settles O52: BUSY decides between the two arms of acceptance, and the turn taken does not change it. -/
theorem cmdWriteIsTakenOrDropped : Obligations.CmdWriteIsTakenOrDropped := by
  intro s rest c hturns
  have hstep : step s = .next (({ s with turns := rest } : State).writeCmd c) := step_regWrite .cmd hturns
  refine ⟨fun hbusy => ?_, fun hidle => ?_⟩
  · rw [hstep, writeCmd_busy c]
    exact hbusy
  · rw [hstep, writeCmd_idle c]
    · exact ⟨s.argReg, append_toNat _ _, _, rfl, rfl⟩
    · exact hidle

/-- Settles O53: each ARG register is written whole, and nothing else is. -/
theorem argWritesLeaveTheRunningCommand : Obligations.ArgWritesLeaveTheRunningCommand :=
  fun _ _ _ => ⟨step_regWrite .argLo, step_regWrite .argHi⟩

end Sys2Proof.Machine

/-! SUPPORT. Proofs of the statements about the byte source (20_memory.md): what each kind of turn does to the source and to the
record that it is in use (log 13). -/

namespace Sys2Proof.Machine

/-- A turn leaves the byte source, and forgets no use of it. -/
structure KeepsSource (s t : State) : Prop where
  source : t.source = s.source
  inUse : s.sourceInUse = true → t.sourceInUse = true

/-- No command word, legal or not, writes the byte source (20_memory.md R61). -/
theorem WordEffect.keepsSource {c : Word} {s t : State} (h : WordEffect c s t) : KeepsSource s t := by
  cases h <;> exact ⟨rfl, id⟩

/-- The engine's turn leaves the byte source, whatever it runs. -/
theorem engineTurn_keepsSource {s t : State} (h : engineTurn s = .next t) : KeepsSource s t := by
  obtain rfl | ⟨c, a, -, -, heff⟩ := engineTurn_effect h
  · exact ⟨rfl, id⟩
  · exact heff.keepsSource

/-- No host access writes the byte source (20_memory.md R61); acceptance can only add to the record of its use. -/
theorem HostEffect.keepsSource {s t : State} (h : HostEffect s t) : KeepsSource s t := by
  obtain ⟨u, v, ag, hw⟩ := h
  cases hw with
  | cmd c _ => exact ⟨rfl, fun hu => by simp [hu]⟩
  | _ => exact ⟨rfl, id⟩

/-- Only attaching a source, while none is in use, does not leave it (70_reset_and_hazards.md R273). -/
theorem StepKind.keepsSource_or_attach {s u t : State} (h : StepKind s u t) :
    KeepsSource u t ∨ u.sourceInUse = false ∧
      ∃ len cells errDraws silentDraws, s.turns.head? = some (.attach len cells errDraws silentDraws) := by
  cases h with
  | engine _ _ ht => exact .inl (engineTurn_keepsSource ht)
  | host _ hh => exact .inl hh.keepsSource
  | rst _ => exact .inl ⟨rfl, id⟩
  | attach len cells errDraws silentDraws hturn hnot =>
    exact .inr ⟨hnot, len.val, cells, errDraws, silentDraws, hturn⟩

/-- A host access after which an idle engine runs a word has put that word in CMD: acceptance records a LOCATE or PEEK. -/
theorem HostEffect.inUse_of_taken {s t : State} {c : Word} {a : BitVec 64} (h : HostEffect s t) (hidle : s.engine = .idle)
    (hrun : t.engine = .run c a) (hc : wordReadsSource c = true) : t.sourceInUse = true := by
  obtain ⟨u, v, ag, hw⟩ := h
  cases hw with
  | cmd d _ =>
    obtain ⟨rfl, -⟩ : d = c ∧ s.argReg = a := by simpa [State.accept] using hrun
    simp [hc]
  | _ => cases hidle.symm.trans hrun

/-- A turn after which an idle engine runs a LOCATE or PEEK is a host's, and puts the source in use. -/
theorem StepKind.inUse_of_taken {s u t : State} {c : Word} {a : BitVec 64} (h : StepKind s u t) (hidle : u.engine = .idle)
    (hrun : t.engine = .run c a) (hc : wordReadsSource c = true) : t.sourceInUse = true := by
  cases h with
  | engine _ _ ht =>
    obtain rfl | ⟨d, b, hd, -, -⟩ := engineTurn_effect ht
    · cases hidle.symm.trans hrun
    · cases hidle.symm.trans hd
  | host _ hh => exact hh.inUse_of_taken hidle hrun hc
  | rst _ => cases hrun
  | attach => cases hidle.symm.trans hrun

/-- Settles O40: every kind of turn but attaching keeps the source, attaching needs a source not in use, and only acceptance
starts a LOCATE or PEEK. -/
theorem onlyAttachingChangesTheSource : Obligations.OnlyAttachingChangesTheSource := by
  intro s t hstep
  obtain ⟨ts, hkind⟩ := step_kind hstep
  refine ⟨fun hno => ?_, fun hused => ?_, fun a hidle hrun => ?_⟩
  · obtain hkeep | ⟨-, len, cells, e, q, hturn⟩ := hkind.keepsSource_or_attach
    · exact ⟨hkeep.source, fun a => by rw [hkeep.source]⟩
    · exact absurd hturn (hno len cells e q)
  · obtain hkeep | ⟨hnot, -⟩ := hkind.keepsSource_or_attach
    · exact ⟨hkeep.inUse hused, hkeep.source⟩
    · cases hused.symm.trans hnot
  · obtain hrun | hrun := hrun
    · exact hkind.inUse_of_taken hidle hrun rfl
    · exact hkind.inUse_of_taken hidle hrun rfl

end Sys2Proof.Machine

/-! SUPPORT. Proofs of the statements about the encoding (30_encoding.md): the decode of a command word, the header layout, the
sync predicate, the commands that read no argument, and the host assembly. -/

namespace Sys2Proof.Machine

/-! ### The decode of a command word -/

/-- The RSV field is 0 exactly when bits 31:4 are (30_encoding.md R91). -/
theorem ofWord_rsv_eq_zero_iff (w : Word) : (Cmd32.ofWord w).rsv = 0#28 ↔ w.toNat / 16 = 0 := by
  have := w.isLt
  rw [← BitVec.toNat_inj, Cmd32.ofWord, extract_toNat, BitVec.toNat_ofNat]
  omega

theorem ofWord_op_toNat (w : Word) : (Cmd32.ofWord w).op.toNat = w.toNat % 16 := by
  rw [Cmd32.ofWord, extract_toNat]
  omega

/-- The reserved opcodes (30_encoding.md R92). -/
theorem decodeOp_eq_none_iff (op : BitVec 4) : decodeOp op = none ↔ 6 ≤ op.toNat := by
  revert op
  decide

/-- The command words are the numbers below 6 (30_encoding.md R92). -/
theorem encode_toNat_lt (i : Instr) : (encode i).toNat < 6 := by
  cases i <;> decide

/-- The decode of a word, by the numbers in its two fields (30_encoding.md R94, R95). -/
theorem decode_cases (w : Word) :
    (w.toNat / 16 ≠ 0 ∧ decode w = .error .reservedBits) ∨
    (w.toNat / 16 = 0 ∧ 6 ≤ w.toNat % 16 ∧ decode w = .error .reservedOp) ∨
    (w.toNat < 6 ∧ ∃ i, decode w = .ok i) := by
  by_cases hrsv : (Cmd32.ofWord w).rsv = 0#28
  · have hzero := (ofWord_rsv_eq_zero_iff w).1 hrsv
    cases hop : decodeOp (Cmd32.ofWord w).op with
    | none =>
      have hres := (decodeOp_eq_none_iff _).1 hop
      rw [ofWord_op_toNat] at hres
      exact .inr (.inl ⟨hzero, hres, by simp only [decode, if_pos hrsv, hop]⟩)
    | some i =>
      have hd : decode w = .ok i := by simp only [decode, if_pos hrsv, hop]
      exact .inr (.inr ⟨encode_of_decode hd ▸ encode_toNat_lt i, i, hd⟩)
  · exact .inl ⟨mt (ofWord_rsv_eq_zero_iff w).2 hrsv, by simp only [decode, if_neg hrsv]⟩

/-- Settles O2: of the three outcomes of the decode, the command is the one of the words below 6. -/
theorem decodeIsTotalAndExact : Obligations.DecodeIsTotalAndExact := by
  refine ⟨encode_toNat_lt, fun w hw => ?_, fun w i => encode_of_decode, fun w hw => ?_⟩
  · obtain ⟨hrsv, -⟩ | ⟨-, hop, -⟩ | ⟨-, i, hd⟩ := decode_cases w
    · omega
    · omega
    · exact ⟨i, hd, encode_of_decode hd⟩
  · obtain ⟨-, hd⟩ | ⟨-, -, hd⟩ | ⟨hlt, -⟩ := decode_cases w
    · exact ⟨_, hd⟩
    · exact ⟨_, hd⟩
    · omega

/-- Settles O3: the three outcomes of the decode exclude each other, by the numbers in the two fields. -/
theorem illegalWordsAreNamed : Obligations.IllegalWordsAreNamed := by
  intro w
  obtain ⟨hrsv, hd⟩ | ⟨hrsv, hop, hd⟩ | ⟨hlt, i, hd⟩ := decode_cases w
  · simp [hd, hrsv]
  · simp [hd, hrsv, hop]
  · have hzero : w.toNat / 16 = 0 := by omega
    have hlegal : ¬ 6 ≤ w.toNat % 16 := by omega
    simp [hd, hzero, hlegal]

/-- Settles O1: the six words by evaluation; a word with RSV = 0 and OP from 6 on has only the second outcome of the decode. -/
theorem commandWordsDecodeByOpcodeMap : Obligations.CommandWordsDecodeByOpcodeMap := by
  refine ⟨rfl, rfl, rfl, rfl, rfl, rfl, fun op hop => ?_⟩
  have hword : (0#28 ++ op).toNat = op.toNat := by
    rw [append_toNat, BitVec.toNat_ofNat]
    omega
  have := op.isLt
  obtain ⟨hrsv, -⟩ | ⟨-, -, hd⟩ | ⟨hlt, -⟩ := decode_cases (0#28 ++ op)
  · omega
  · exact hd
  · omega

/-! ### The header layout -/

/-- Laying the extracted fields out gives the 56 bits back: each field ends where the one before it begins
(30_encoding.md R96, R97). -/
theorem layoutFields_extractFields (H : BitVec 56) : layoutFields (extractFields H) = H := by
  simp (disch := rfl) only [layoutFields, extractFields, BitVec.extractLsb'_append_extractLsb'_eq_extractLsb']
  exact BitVec.extractLsb'_eq_self

/-- Two concatenations of the same widths are equal only part by part. -/
theorem append_inj_iff {m n : Nat} {x x' : BitVec m} {y y' : BitVec n} : x ++ y = x' ++ y' ↔ x = x' ∧ y = y' := by
  refine ⟨fun h => ⟨?_, ?_⟩, fun ⟨hx, hy⟩ => hx ▸ hy ▸ rfl⟩
  · simpa only [BitVec.extractLsb'_append_eq_left] using congrArg (BitVec.extractLsb' n m) h
  · simpa only [BitVec.setWidth_append_eq_right] using congrArg (BitVec.setWidth n) h

/-- No two headers have the same layout: no bit of a field is dropped (30_encoding.md R96). -/
theorem layoutFields_injective {r r' : RawHeader} (h : layoutFields r = layoutFields r') : r = r' := by
  cases r
  cases r'
  have hparts := (append_inj_iff (n := 2)).1 h
  simpa only [append_inj_iff, RawHeader.mk.injEq, and_assoc] using hparts

/-- Settles O4: the layout is injective and has the extraction as its right inverse, so also as its left inverse. -/
theorem headerLayoutRoundTrips : Obligations.HeaderLayoutRoundTrips :=
  ⟨fun r => layoutFields_injective (layoutFields_extractFields (layoutFields r)), layoutFields_extractFields⟩

/-- Settles O5: the cursor after each read is a numeral, the one that R97 gives as the next field's position. -/
theorem cursorReadsTheFixedPositions : Obligations.CursorReadsTheFixedPositions :=
  fun _ => ⟨rfl, fun _ _ => rfl⟩

/-- Settles O6: both tests are the same equation between the first two bytes. -/
theorem syncPredicateIsTheSyncword : Obligations.SyncPredicateIsTheSyncword := by
  intro src a
  rw [← BitVec.toNat_inj, extract_syncword, Source.bytes_getElem, Source.bytes_getElem]
  exact syncPair_iff (src.byteAt a) (src.byteAt (a + 1))

/-! ### The commands that read no argument (30_encoding.md R93) -/

/-- The engine with another copy of the argument. -/
def Engine.withArg (b : BitVec 64) : Engine → Engine
  | .idle => .idle
  | .run c _ => .run c b

/-- The state with other ARG registers and another copy of the argument. -/
def State.withArg (lo hi : Word) (b : BitVec 64) (s : State) : State :=
  { s with argLo := lo, argHi := hi, engine := s.engine.withArg b }

theorem State.withArg_busy (lo hi : Word) (b : BitVec 64) (s : State) : (s.withArg lo hi b).busy = s.busy := by
  cases h : s.engine <;> simp [State.busy, State.withArg, Engine.withArg, h]

/-- The end of a window step or scan, its state changed by `f`. -/
def WindowEnd.map (f : State → State) : WindowEnd → WindowEnd
  | .found s p => .found (f s) p
  | .failed s => .failed (f s)
  | .hung s => .hung (f s)
  | .again s => .again (f s)

/-- A window step reads the source and the scan state only (40_locate.md R132). -/
theorem windowStep_withArg (lo hi : Word) (b : BitVec 64) (s : State) :
    windowStep (s.withArg lo hi b) = (windowStep s).map (State.withArg lo hi b) := by
  have hread : (s.withArg lo hi b).memRead (s.withArg lo hi b).ws.toNat 9 = s.memRead s.ws.toNat 9 := rfl
  rw [windowStep, windowStep, hread]
  cases s.memRead s.ws.toNat 9 with
  | silent => rfl
  | short => rfl
  | err => rfl
  | ok w =>
    simp only [State.setWbuf_wbuf]
    cases firstMatch w <;> rfl

/-- So does the scan: each of its window steps commutes with changing the argument. -/
theorem scan_withArg (lo hi : Word) (b : BitVec 64) (n : Nat) (s : State) :
    scan n (s.withArg lo hi b) = (scan n s).map (State.withArg lo hi b) := by
  induction n generalizing s with
  | zero => rfl
  | succ n ih =>
    rw [scan, scan, windowStep_withArg]
    cases windowStep s with
    | again t => exact ih t
    | _ => rfl

theorem execLocate_withArg (lo hi : Word) (b : BitVec 64) {s t : State} (h : execLocate s = .next t) :
    execLocate (s.withArg lo hi b) = .next (t.withArg lo hi b) := by
  have hscan : scan (scanFuel (s.withArg lo hi b)) ((s.withArg lo hi b).setWs (s.withArg lo hi b).pos) =
      (scan (scanFuel s) (s.setWs s.pos)).map (State.withArg lo hi b) :=
    scan_withArg lo hi b (scanFuel s) (s.setWs s.pos)
  rw [execLocate] at h ⊢
  rw [hscan]
  cases hend : scan (scanFuel s) (s.setWs s.pos) with
  | _ =>
    rw [hend] at h
    cases h
    rfl

theorem execPeek_withArg (lo hi : Word) (b : BitVec 64) {s t : State} (h : execPeek s = .next t) :
    execPeek (s.withArg lo hi b) = .next (t.withArg lo hi b) := by
  have hread : (s.withArg lo hi b).memRead (s.withArg lo hi b).pos.toNat 7 = s.memRead s.pos.toNat 7 := rfl
  rw [execPeek] at h ⊢
  rw [hread]
  cases hm : s.memRead s.pos.toNat 7 with
  | ok bytes =>
    simp only [hm, peekDecode, State.setHbuf_hbuf] at h ⊢
    cases hc : checkHeader (extractFields (headerWord bytes)) with
    | _ =>
      rw [hc] at h
      cases h
      rfl
  | _ =>
    rw [hm] at h
    cases h
    rfl

theorem execAdvance_withArg (lo hi : Word) (b : BitVec 64) {s t : State} (h : execAdvance s = .next t) :
    execAdvance (s.withArg lo hi b) = .next (t.withArg lo hi b) := by
  simp only [execAdvance] at h
  split at h
  · rename_i hvalid
    split at h <;> rename_i hrange <;> cases h
    · exact (if_pos hvalid).trans (if_pos hrange)
    · exact (if_pos hvalid).trans (if_neg hrange)
  · rename_i hvalid
    cases h
    exact if_neg hvalid

/-- No command but the seeks reads the argument: on another one they do the same. -/
theorem exec_withArg (lo hi : Word) (b : BitVec 64) {i : Instr} {s t : State}
    (hinstr : i = .nop ∨ i = .locate ∨ i = .peek ∨ i = .advance) (h : exec i s = .next t) :
    exec i (s.withArg lo hi b) = .next (t.withArg lo hi b) := by
  obtain rfl | rfl | rfl | rfl := hinstr
  · cases h
    rfl
  · exact execLocate_withArg lo hi b h
  · exact execPeek_withArg lo hi b h
  · exact execAdvance_withArg lo hi b h

/-- Settles O42: the state with the other argument is `s.withArg`, and so is the next state. -/
theorem onlySeeksReadTheArgument : Obligations.OnlySeeksReadTheArgument := by
  intro i s t c a b lo hi hinstr hrun hexec
  have hstate : ({ s with argLo := lo, argHi := hi, engine := .run c b } : State) = s.withArg lo hi b := by
    rw [State.withArg, hrun, Engine.withArg]
  rw [hstate]
  exact ⟨_, exec_withArg lo hi b hinstr hexec, rfl, rfl, rfl, rfl, rfl, rfl, State.withArg_busy lo hi b t, rfl⟩

/-! ### The host's lines (30_encoding.md R110) -/

/-- The host runs the line it stands at. -/
theorem hostTurn_of_line {s : State} {l : AsmLine} (h : s.agent.prog[s.agent.line]? = some l) :
    hostTurn s = runLine l s := by
  simp only [hostTurn, h]

/-- On an idle block with nothing scheduled the step is the host's line. -/
theorem step_of_idle_line {s : State} {l : AsmLine} (hidle : s.engine = .idle) (hturns : s.turns = [])
    (h : s.agent.prog[s.agent.line]? = some l) : step s = runLine l s := by
  rw [step_of_no_turns hturns, if_neg (ne_true_of_eq_false ((busy_false_iff s).2 hidle)), hostTurn_of_line h]

/-- A read of a register leaves its word in the host's records and nowhere else. -/
theorem hostRead_eq (s : State) (r : RegName) :
    s.hostRead r = { s with rdata := s.readReg r,
                            agent := { s.agent with seen := recordRead r (s.readReg r) s.agent.seen } } := by
  rw [State.hostRead, State.readOffset_offset]
  rfl

theorem hostWait_idle {s : State} (h : s.engine = .idle) : hostWait s = .next (s.hostRead .status).nextLine :=
  if_neg (ne_true_of_eq_false ((busy_false_iff s).2 h))

theorem hostWait_busy {s : State} (h : s.busy = true) : hostWait s = .next (s.hostRead .status) :=
  if_pos h

/-- A branch to a label that the program holds. -/
theorem branchTo_of_findLabel {s : State} {l n : Nat} (h : findLabel l s.agent.prog = some n) :
    branchTo s l = .next (s.gotoLine n) := by
  simp only [branchTo, h]

/-- `b.err` looks at the current ERR (log 11). -/
theorem runLine_bErr_of_err {s : State} (l : Nat) (h : s.err ≠ 0#4) : runLine (.bErr l) s = branchTo s l :=
  if_pos h

theorem runLine_bErr_of_no_err {s : State} (l : Nat) (h : s.err = 0#4) : runLine (.bErr l) s = .next s.nextLine :=
  if_neg (not_not_intro h)

/-- A field of a word is an immediate exactly when the numbers are equal. -/
theorem FieldName.extract_eq_iff (f : FieldName) (v imm : Word) :
    f.extract v = imm ↔ v.toNat / 2 ^ f.place.2.1 % 2 ^ f.place.2.2 = imm.toNat := by
  rw [← BitVec.toNat_inj, f.extract_toNat]

/-- `b.eq` on a field of a register that was read. -/
theorem hostBranchEq_of_read {s : State} {f : FieldName} {v : Word} (imm : Word) (l : Nat)
    (h : lastRead f.place.1 s.agent.seen = some v) :
    hostBranchEq s f imm l = if f.extract v = imm then branchTo s l else .next s.nextLine := by
  simp only [hostBranchEq, f.reg_eq_place, h]

/-- Settles O56: on an idle block the step is the host's line, whose kind says what it does. -/
theorem hostLinesActOnTheWindow : Obligations.HostLinesActOnTheWindow := by
  intro s hidle hturns
  have hstep {l : AsmLine} (h : s.agent.prog[s.agent.line]? = some l) : step s = runLine l s :=
    step_of_idle_line hidle hturns h
  refine ⟨fun r v hline => ?wr, fun r hline => ?rd, fun hline => ?wait, fun l n hlabel hline => ?branch,
    fun l hline => ?next, fun f imm l v hline hread => ?eq, fun hline => hstep hline⟩
  case wr =>
    have hagent := (writeReg_cases s r v).agent_eq
    rw [hstep hline, runLine, State.writeOffset_offset, State.nextLine, State.gotoLine, hagent]
  case rd =>
    refine ⟨(s.hostRead r).nextLine, hstep hline, ?_, fun q => ?_⟩
    · rw [hostRead_eq]
      rfl
    · rw [hostRead_eq]
      exact lastRead_recordRead q r _ _
  case wait =>
    refine ⟨(s.hostRead .status).nextLine, (hstep hline).trans (hostWait_idle hidle), ?_, fun q => ?_⟩
    · rw [hostRead_eq]
      rfl
    · rw [hostRead_eq]
      exact lastRead_recordRead q .status _ _
  case branch =>
    obtain hline | ⟨hline, herr⟩ := hline
    · exact (hstep hline).trans (branchTo_of_findLabel hlabel)
    · rw [hstep hline, runLine_bErr_of_err l herr]
      exact branchTo_of_findLabel hlabel
  case next =>
    obtain hline | ⟨hline, herr⟩ := hline
    · exact hstep hline
    · exact (hstep hline).trans (runLine_bErr_of_no_err l herr)
  case eq =>
    have htest := (hstep hline).trans (hostBranchEq_of_read imm l hread)
    refine ⟨fun heq n hlabel => ?_, fun hne => ?_⟩
    · rw [htest, if_pos ((f.extract_eq_iff v imm).2 heq)]
      exact branchTo_of_findLabel hlabel
    · rw [htest, if_neg (mt (f.extract_eq_iff v imm).1 hne)]
      rfl

/-- Settles O57: the round is a read of STATUS, whose word does not depend on the schedule, and the host goes to no line. -/
theorem hostWaitRepeatsWhileBusy : Obligations.HostWaitRepeatsWhileBusy := by
  intro s rest hbusy hturns hline
  have hstep : step s = .next (({ s with turns := rest } : State).hostRead .status) := by
    rw [step_of_turn hturns]
    exact (hostTurn_of_line (s := { s with turns := rest }) hline).trans (hostWait_busy hbusy)
  refine ⟨_, hstep, ?_, fun q => ?_⟩
  · rw [hostRead_eq]
    rfl
  · rw [hostRead_eq]
    exact lastRead_recordRead q .status _ _

/-! ### The pseudo-instructions (30_encoding.md R111) -/

/-- The two halves of an operand, put together again. -/
theorem halves_append (v : BitVec 64) : v.extractLsb' 32 32 ++ v.extractLsb' 0 32 = v :=
  (BitVec.extractLsb'_append_extractLsb'_eq_extractLsb' rfl).trans BitVec.extractLsb'_eq_self

/-- Settles O58: the halves written are those of the operand, and a `v` in range is the value of its 64 bits. -/
theorem seekPseudoInstructionsWriteTheOperand : Obligations.SeekPseudoInstructionsWriteTheOperand := by
  refine ⟨fun v hlo hhi => ⟨_, _, rfl, ?_⟩, fun v => ⟨_, _, rfl, halves_append v⟩⟩
  rw [halves_append]
  exact BitVec.toInt_ofInt_eq_self (by decide) hlo hhi

/-- Settles O59: the expansions by evaluation, and the halves of the start address. -/
theorem pseudoInstructionsAndTheWalkExpand : Obligations.PseudoInstructionsAndTheWalkExpand :=
  ⟨rfl, rfl, rfl, rfl, rfl, rfl, fun start => ⟨_, _, halves_append start, rfl⟩, fun _ => ⟨rfl, rfl⟩⟩

end Sys2Proof.Machine

/-! SUPPORT. Proofs of the statements about LOCATE (40_locate.md): in which window a scan ends and how, and which pair starts the
windows before it have tested. -/

namespace Sys2Proof.Machine

/-! ### The arithmetic of the windows (40_locate.md R139) -/

/-- Window `windowsTo d` tests the pair start at distance `d`. -/
theorem windowsTo_covers (d : Nat) : 5 * windowsTo d ≤ d ∧ d ≤ 5 * windowsTo d + 7 := by
  unfold windowsTo
  split <;> omega

/-- No window before it does. -/
theorem windowsTo_le {d m : Nat} (h : d ≤ 5 * m + 7) : windowsTo d ≤ m := by
  unfold windowsTo
  split <;> omega

/-- The full windows are those that end inside the source. -/
theorem lt_fullWindows_iff {len start m : Nat} : m < fullWindows len start ↔ start + 5 * m + 9 ≤ len := by
  unfold fullWindows
  split <;> omega

/-- Where the predicate holds at all, it holds first somewhere. -/
theorem exists_firstSync {src : Source} {start k : Nat} (hle : start ≤ k) (hin : k + 1 < src.len.val)
    (hsync : src.syncAt k = true) : ∃ i, i ≤ k ∧ src.firstSync start i := by
  have hex : ∃ i, start ≤ i ∧ src.syncAt i = true := ⟨k, hle, hsync⟩
  obtain ⟨hstart, hfound⟩ := Nat.find_spec hex
  have hik : Nat.find hex ≤ k := Nat.find_min' hex ⟨hle, hsync⟩
  refine ⟨Nat.find hex, hik, hstart, by omega, hfound, fun j hj hlt => ?_⟩
  exact eq_false_of_ne_true fun h => Nat.find_min hex hlt ⟨hj, h⟩

/-! ### The windows read without a match -/

/-- A LOCATE from `s` reads its windows 0 to `j - 1` and finds no match in them. -/
abbrev State.QuietTo (s : State) (j : Nat) : Prop :=
  ∀ m, m < j → QuietWindow s.source s.reads s.pos.toNat m

theorem State.quietTo_zero (s : State) : s.QuietTo 0 :=
  fun _ hm => absurd hm (Nat.not_lt_zero _)

/-- No pair start below the next window is missed: it is one of the first five of its window (40_locate.md R140). -/
theorem State.QuietTo.no_sync {s : State} {j k : Nat} (h : s.QuietTo j) (hle : s.pos.toNat ≤ k)
    (hlt : k < s.pos.toNat + 5 * j) : s.source.syncAt k = false := by
  have hno := (h ((k - s.pos.toNat) / 5) (by omega)).noMatch ⟨(k - s.pos.toNat) % 5, by omega⟩
  have hk : s.pos.toNat + 5 * ((k - s.pos.toNat) / 5) + (k - s.pos.toNat) % 5 = k := by omega
  rwa [hk] at hno

/-- The start of the next window is a position: it does not wrap around (40_locate.md R143). -/
theorem State.QuietTo.next_start_lt {s : State} {j : Nat} (h : s.QuietTo j) :
    s.pos.toNat + 5 * j < 18446744073709551616 := by
  cases j with
  | zero => exact s.pos.isLt
  | succ j =>
    have hin := (h j (Nat.lt_succ_self j)).inside
    have hlen := s.source.len_le
    omega

/-- The bound on the windows without a match (40_locate.md R143). -/
theorem State.QuietTo.le_bound {s : State} {j : Nat} (h : s.QuietTo j) :
    j ≤ (s.source.len.val - s.pos.toNat - 9) / 5 + 1 := by
  cases j with
  | zero => exact Nat.zero_le _
  | succ j =>
    have hin := (h j (Nat.lt_succ_self j)).inside
    omega

/-! ### How a LOCATE ends -/

/-- How a LOCATE from `s` ends in its window number `j`, and in which state (40_locate.md R132). -/
inductive LocateEnd (s : State) (j : Nat) : State → Prop where
  /-- The window is read, and `q` is its first match (40_locate.md R134). -/
  | found (q : Fin 8) : s.pos.toNat + 5 * j + 9 ≤ s.source.len.val → ¬ s.source.errRead (s.reads + j) →
      s.source.syncAt (s.pos.toNat + 5 * j + q.val) = true →
      (∀ r : Fin 8, r < q → s.source.syncAt (s.pos.toNat + 5 * j + r.val) = false) →
      LocateEnd s j (located s (s.pos.toNat + 5 * j + q.val) (j + 1) .ok)
  /-- The read is `Short` or `Err` (40_locate.md R135, R136). -/
  | failed : s.source.len.val < s.pos.toNat + 5 * j + 9 ∨ s.source.errRead (s.reads + j) →
      LocateEnd s j (located s (s.pos.toNat + 5 * j) (j + 1) .ioFailure)
  /-- The read is never answered (70_reset_and_hazards.md R282). -/
  | hung (w : Vector Byte 9) (p : Pos) : s.source.silentRead (s.reads + j) →
      LocateEnd s j (scanning s w p (j + 1)).stall

/-- LOCATE ends in the first window that is not read without a match. -/
theorem execLocate_end (s : State) : ∃ j t, s.QuietTo j ∧ LocateEnd s j t ∧ exec .locate s = .next t := by
  obtain ⟨j, hquiet, ⟨q, -, hin, hok, hsync, hfirst, he⟩ | ⟨-, hfail, he⟩ | ⟨hsilent, w, p, he⟩⟩ := execLocate_cases s
  · exact ⟨j, _, hquiet, .found q hin hok hsync hfirst, he⟩
  · exact ⟨j, _, hquiet, .failed hfail, he⟩
  · exact ⟨j, _, hquiet, .hung w p hsilent, he⟩

/-- The same, from the state that LOCATE answers. -/
theorem locateEnd_of_exec {s t : State} (h : exec .locate s = .next t) : ∃ j, s.QuietTo j ∧ LocateEnd s j t := by
  obtain ⟨j, u, hquiet, hend, he⟩ := execLocate_end s
  cases he.symm.trans h
  exact ⟨j, hquiet, hend⟩

/-- A window that ends a LOCATE is not one read without a match. -/
theorem LocateEnd.not_quiet {s t : State} {j : Nat} (h : LocateEnd s j t) :
    ¬ QuietWindow s.source s.reads s.pos.toNat j := by
  intro hq
  cases h with
  | found q _ _ hsync _ => exact ne_true_of_eq_false (hq.noMatch q) hsync
  | failed hfail => exact hfail.elim hq.inside.not_gt hq.noError
  | hung w p hsilent => exact hq.answered hsilent

/-- So the window it ends in is determined: the first one that is not read without a match. -/
theorem execLocate_end_at {s : State} {j : Nat} (hquiet : s.QuietTo j)
    (hstop : ¬ QuietWindow s.source s.reads s.pos.toNat j) : ∃ t, LocateEnd s j t ∧ exec .locate s = .next t := by
  obtain ⟨i, t, hquiet', hend, he⟩ := execLocate_end s
  obtain hlt | rfl | hgt := Nat.lt_trichotomy i j
  · exact absurd (hquiet i hlt) hend.not_quiet
  · exact ⟨t, hend, he⟩
  · exact absurd (hquiet' j hgt) hstop

/-- LOCATE where window `j` is the first to end in a failed read (40_locate.md R135, R136). -/
theorem execLocate_of_failed_read {s : State} {j : Nat} (hquiet : s.QuietTo j)
    (hans : ¬ s.source.silentRead (s.reads + j))
    (hfail : s.source.len.val < s.pos.toNat + 5 * j + 9 ∨ s.source.errRead (s.reads + j)) :
    exec .locate s = .next (located s (s.pos.toNat + 5 * j) (j + 1) .ioFailure) := by
  obtain ⟨t, hend, he⟩ := execLocate_end_at hquiet (LocateEnd.failed hfail).not_quiet
  cases hend with
  | found q hin hok _ _ => exact absurd hfail (not_or.2 ⟨hin.not_gt, hok⟩)
  | failed _ => exact he
  | hung w p hsilent => exact absurd hsilent hans

/-- LOCATE where window `j` is read and tests the first match `k`, and the windows before it hold none (40_locate.md R134). -/
theorem execLocate_of_firstSync {s : State} {j k : Nat} (hquiet : s.QuietTo j)
    (hans : ¬ s.source.silentRead (s.reads + j)) (hin : s.pos.toNat + 5 * j + 9 ≤ s.source.len.val)
    (hok : ¬ s.source.errRead (s.reads + j)) (hk : s.source.firstSync s.pos.toNat k)
    (hlo : s.pos.toNat + 5 * j ≤ k) (hhi : k ≤ s.pos.toNat + 5 * j + 7) :
    exec .locate s = .next (located s k (j + 1) .ok) := by
  obtain ⟨hstart, -, hsync, hleast⟩ := hk
  obtain ⟨d, rfl⟩ := Nat.exists_eq_add_of_le hlo
  have hd : d < 8 := by omega
  obtain ⟨t, hend, he⟩ := execLocate_end_at hquiet fun hq => ne_true_of_eq_false (hq.noMatch ⟨d, hd⟩) hsync
  cases hend with
  | found q _ _ hq hfirst =>
    have hqd : q.val = d := by
      obtain hlt | heq | hgt := Nat.lt_trichotomy q.val d
      · exact absurd hq (ne_true_of_eq_false (hleast _ (by omega) (by omega)))
      · exact heq
      · exact absurd hsync (ne_true_of_eq_false (hfirst ⟨d, hd⟩ hgt))
    rwa [hqd] at he
  | failed hfail => exact absurd hfail (not_or.2 ⟨hin.not_gt, hok⟩)
  | hung w p hsilent => exact absurd hsilent hans

/-- A LOCATE that gives OK ends at the first match (40_locate.md R140). -/
theorem firstSync_of_found {s : State} {j : Nat} {q : Fin 8} (hquiet : s.QuietTo j)
    (hin : s.pos.toNat + 5 * j + 9 ≤ s.source.len.val)
    (hsync : s.source.syncAt (s.pos.toNat + 5 * j + q.val) = true)
    (hfirst : ∀ r : Fin 8, r < q → s.source.syncAt (s.pos.toNat + 5 * j + r.val) = false) :
    s.source.firstSync s.pos.toNat (s.pos.toNat + 5 * j + q.val) := by
  have hq := q.isLt
  refine ⟨by omega, by omega, hsync, fun i hle hlt => ?_⟩
  by_cases hbefore : i < s.pos.toNat + 5 * j
  · exact hquiet.no_sync hle hbefore
  · obtain ⟨r, rfl⟩ := Nat.exists_eq_add_of_le (Nat.le_of_not_lt hbefore)
    exact hfirst ⟨r, by omega⟩ (Fin.lt_def.2 (Nat.lt_of_add_lt_add_left hlt))

/-! ### Where LOCATE leaves POS -/

/-- The position of a match, or of a window that fails, is held by POS exactly. -/
theorem located_pos_toNat {s : State} {p n : Nat} {c : StatusCode} (h : p < 18446744073709551616) :
    (located s p n c).pos.toNat = p :=
  Nat.mod_eq_of_lt h

/-- A first match is a position. -/
theorem Source.firstSync.lt_limit {src : Source} {start k : Nat} (h : src.firstSync start k) :
    k < 18446744073709551616 := by
  obtain ⟨-, hin, -, -⟩ := h
  have hlen := src.len_le
  omega

/-- A LOCATE that ends where it started leaves POS as it is. -/
theorem located_start (s : State) (n : Nat) (c : StatusCode) :
    located s s.pos.toNat n c = { located s s.pos.toNat n c with pos := s.pos } := by
  simp only [located, BitVec.ofNat_toNat, BitVec.setWidth_eq]

/-! ### The statements -/

/-- Settles O27: no window before the first match's, and no full window where there is no covered match, holds a match. -/
theorem locateClosedForm : Obligations.LocateClosedForm := by
  intro s hgood hans
  have answered (m : Nat) : ¬ s.source.silentRead (s.reads + m) := hans _ (Nat.le_add_right _ _)
  have noError (m : Nat) : ¬ s.source.errRead (s.reads + m) := hgood _ (Nat.le_add_right _ _)
  refine ⟨fun k hk hin => ?found, fun hnone => ?failed⟩
  case found =>
    have hlim := hk.lt_limit
    have ⟨hstart, _, _, hleast⟩ := hk
    obtain ⟨hlo, hhi⟩ := windowsTo_covers (k - s.pos.toNat)
    have hquiet : s.QuietTo (windowsTo (k - s.pos.toNat)) := fun m hm => by
      have hbefore : 5 * m + 7 < k - s.pos.toNat := lt_of_not_ge fun h => Nat.not_le_of_lt hm (windowsTo_le h)
      exact ⟨answered m, by omega, noError m, fun p => hleast _ (by omega) (by omega)⟩
    exact ⟨_, execLocate_of_firstSync hquiet (answered _) hin (noError _) hk (by omega) (by omega), rfl,
      located_pos_toNat hlim⟩
  case failed =>
    have hquiet : s.QuietTo (fullWindows s.source.len.val s.pos.toNat) := fun m hm => by
      have hin := lt_fullWindows_iff.1 hm
      refine ⟨answered m, hin, noError m, fun p => eq_false_of_ne_true fun hsync => ?_⟩
      obtain ⟨k, hkp, hk⟩ := exists_firstSync (start := s.pos.toNat) (by omega) (by omega) hsync
      have hwindow : windowsTo (k - s.pos.toNat) ≤ m := windowsTo_le (by omega)
      have hout := hnone k hk
      omega
    have hshort := Nat.lt_of_not_le (mt lt_fullWindows_iff.2 (Nat.lt_irrefl (fullWindows s.source.len.val s.pos.toNat)))
    exact ⟨_, execLocate_of_failed_read hquiet (answered _) (.inl hshort), rfl, located_pos_toNat hquiet.next_start_lt⟩

/-- Settles O28: OK is given only where a match is found, and every pair start before it was tested. -/
theorem locateReturnsTheFirstMatch : Obligations.LocateReturnsTheFirstMatch := by
  intro s t hbusy hexec hidle herr
  obtain ⟨j, hquiet, hend⟩ := locateEnd_of_exec hexec
  cases hend with
  | found q hin _ hsync hfirst =>
    have hk := firstSync_of_found hquiet hin hsync hfirst
    rwa [located_pos_toNat hk.lt_limit]
  | failed _ => exact absurd (show 1#4 = 0#4 from herr) (by decide)
  | hung w p _ => cases ((busy_false_iff s).2 hidle).symm.trans hbusy

/-- Settles O29: window `j` is the first that is not read without a match. -/
theorem locateStopsAtAFailedRead : Obligations.LocateStopsAtAFailedRead := by
  intro s j hans hread hfail
  have answered (m : Nat) : ¬ s.source.silentRead (s.reads + m) := hans _ (Nat.le_add_right _ _)
  have hquiet : s.QuietTo j := fun m hm => by
    obtain ⟨hin, hok, hno⟩ := hread m hm
    exact ⟨answered m, hin, hok, fun p => hno p p.isLt⟩
  exact ⟨_, execLocate_of_failed_read hquiet (answered j) hfail, rfl⟩

/-- Settles O30: the failed read is that of window 0. -/
theorem locateFailsWithoutAFullWindow : Obligations.LocateFailsWithoutAFullWindow :=
  fun s hans hshort => ⟨_, execLocate_of_failed_read s.quietTo_zero hans (.inl hshort), located_start s 1 .ioFailure⟩

/-- Settles O31: only windows read without a match come before the last read, and their number is bounded. -/
theorem locateCompletesWithinTheReadBound : Obligations.LocateCompletesWithinTheReadBound := by
  intro s hans
  obtain ⟨j, t, hquiet, hend, he⟩ := execLocate_end s
  have hj := hquiet.le_bound
  have hreads : s.reads + 1 ≤ s.reads + (j + 1) ∧
      s.reads + (j + 1) ≤ s.reads + ((s.source.len.val - s.pos.toNat - 9) / 5 + 2) := by omega
  cases hend with
  | found => exact ⟨_, he, rfl, rfl, hreads⟩
  | failed => exact ⟨_, he, rfl, rfl, hreads⟩
  | hung w p hsilent => exact absurd hsilent (hans _ (Nat.le_add_right _ _))

/-- Settles O32: the first match is the start itself, which window 0 tests. -/
theorem locateAtAMatchStays : Obligations.LocateAtAMatchStays := by
  intro s hgood hin hsync
  obtain ⟨hans, hok⟩ := hgood
  have hk : s.source.firstSync s.pos.toNat s.pos.toNat :=
    ⟨Nat.le_refl _, by omega, hsync, fun i hle hlt => absurd hle (Nat.not_le_of_lt hlt)⟩
  exact ⟨_, execLocate_of_firstSync s.quietTo_zero hans hin hok hk (Nat.le_refl _) (by omega), located_start s 1 .ok⟩

/-- Settles O33, by how LOCATE can end; a LOCATE whose read is never answered does not complete. -/
theorem locateFrame : Obligations.LocateFrame := by
  intro s t hexec
  obtain ⟨j, -, hend⟩ := locateEnd_of_exec hexec
  cases hend with
  | found => exact ⟨rfl, fun _ _ => .inl rfl⟩
  | failed => exact ⟨rfl, fun _ _ => .inr rfl⟩
  | hung w p _ => exact ⟨rfl, fun hbusy hidle => by cases ((busy_false_iff s).2 hidle).symm.trans hbusy⟩

end Sys2Proof.Machine

/-! SUPPORT. Proofs of the statements about PEEK (41_peek.md): the verdict of a PEEK whose read is answered, on which every
statement turns; the header at POS as arithmetic on its bytes; the checks. -/

namespace Sys2Proof.Machine

/-! ### The verdict of a PEEK -/

/-- The fixed header that the 7 bytes at POS lay out (30_encoding.md R96). -/
def State.headerAtPos (s : State) : RawHeader :=
  extractFields (headerWord (s.source.bytes s.pos.toNat 7))

/-- What a PEEK from `s` finds where its read is answered: a failure code, or the header it accepts (41_peek.md R161 to R166). -/
def State.peekVerdict (s : State) : Except StatusCode Header :=
  if s.source.len.val < s.pos.toNat + 7 ∨ s.source.errRead s.reads then .error .ioFailure else checkHeader s.headerAtPos

/-- The state that a PEEK ends in, by its verdict (41_peek.md R167, R170). -/
def State.endPeek (s : State) : Except StatusCode Header → State
  | .error c => peekCleared s c
  | .ok h => peekAccepted s h

theorem State.peekVerdict_of_failed_read {s : State}
    (h : s.source.len.val < s.pos.toNat + 7 ∨ s.source.errRead s.reads) : s.peekVerdict = .error .ioFailure :=
  if_pos h

theorem State.peekVerdict_of_read {s : State} (hin : s.pos.toNat + 7 ≤ s.source.len.val)
    (hok : ¬ s.source.errRead s.reads) : s.peekVerdict = checkHeader s.headerAtPos :=
  if_neg (not_or.2 ⟨hin.not_gt, hok⟩)

/-- An answered PEEK ends by its verdict (41_peek.md R171). -/
theorem execPeek_of_answered {s : State} {v : Except StatusCode Header} (hans : ¬ s.source.silentRead s.reads)
    (hv : s.peekVerdict = v) : exec .peek s = .next (s.endPeek v) := by
  subst hv
  obtain ⟨hsilent, -⟩ | ⟨-, hfail, he⟩ | ⟨-, hin, hok, ⟨c, -, hc, he⟩ | ⟨h, hh, he⟩⟩ := execPeek_cases s
  · exact absurd hsilent hans
  · rw [State.peekVerdict_of_failed_read hfail]
    exact he
  · rw [State.peekVerdict_of_read hin hok, State.headerAtPos, hc]
    exact he
  · rw [State.peekVerdict_of_read hin hok, State.headerAtPos, hh]
    exact he

/-- PEEK on 7 bytes that its read delivers ends by the checks of their header. -/
theorem execPeek_of_read {s : State} {v : Except StatusCode Header} (hgood : s.nextReadGood)
    (hin : s.pos.toNat + 7 ≤ s.source.len.val) (hv : checkHeader s.headerAtPos = v) :
    exec .peek s = .next (s.endPeek v) := by
  obtain ⟨hans, hok⟩ := hgood
  exact execPeek_of_answered hans ((State.peekVerdict_of_read hin hok).trans hv)

/-- How a PEEK ends: its read is never answered (70_reset_and_hazards.md R282), or it ends by its verdict. -/
theorem peek_end_of_exec {s t : State} (h : exec .peek s = .next t) :
    t = s.countRead.stall ∨ t = s.endPeek s.peekVerdict := by
  obtain ⟨-, he⟩ | ⟨hans, -⟩ | ⟨hans, -⟩ := execPeek_cases s
  · cases he.symm.trans h
    exact .inl rfl
  · cases (execPeek_of_answered hans rfl).symm.trans h
    exact .inr rfl
  · cases (execPeek_of_answered hans rfl).symm.trans h
    exact .inr rfl

@[simp] theorem State.endPeek_pos (s : State) (v : Except StatusCode Header) : (s.endPeek v).pos = s.pos := by
  cases v <;> rfl

@[simp] theorem State.endPeek_source (s : State) (v : Except StatusCode Header) : (s.endPeek v).source = s.source := by
  cases v <;> rfl

@[simp] theorem State.endPeek_reads (s : State) (v : Except StatusCode Header) : (s.endPeek v).reads = s.reads + 1 := by
  cases v <;> rfl

@[simp] theorem State.endPeek_done (s : State) (v : Except StatusCode Header) : (s.endPeek v).done = true := by
  cases v <;> rfl

/-- Two states give the same verdict where they agree on POS, L, the 7 bytes at POS and the device error (41_peek.md R172). -/
theorem State.peekVerdict_congr {s s' : State} (hpos : s.pos = s'.pos) (hlen : s.source.len = s'.source.len)
    (hbytes : ∀ i, i < 7 → s.source.byteAt (s.pos.toNat + i) = s'.source.byteAt (s.pos.toNat + i))
    (herr : s.source.errRead s.reads ↔ s'.source.errRead s'.reads) : s.peekVerdict = s'.peekVerdict := by
  have hsame : s.source.bytes s.pos.toNat 7 = s'.source.bytes s'.pos.toNat 7 :=
    Vector.ext fun i hi => by simpa only [Source.bytes_getElem, ← hpos] using hbytes i hi
  have hhdr : s.headerAtPos = s'.headerAtPos := congrArg (fun b => extractFields (headerWord b)) hsame
  simp only [State.peekVerdict, hhdr, hlen, hpos, herr]

/-- What a PEEK shows the host depends on POS and the verdict only (41_peek.md R172). -/
theorem State.endPeek_congr {s s' : State} (hpos : s.pos = s'.pos) (v : Except StatusCode Header) :
    (s.endPeek v).err = (s'.endPeek v).err ∧ (s.endPeek v).resValid = (s'.endPeek v).resValid ∧
      (s.endPeek v).hdrPos = (s'.endPeek v).hdrPos ∧ (s.endPeek v).hdr = (s'.endPeek v).hdr := by
  cases v with
  | error c => exact ⟨rfl, rfl, rfl, rfl⟩
  | ok h => exact ⟨rfl, rfl, hpos, rfl⟩

/-! ### The header at POS, as arithmetic on its bytes (30_encoding.md R97) -/

theorem State.bytesAtPos_toNat (s : State) (i : Nat) (h : i < 7) :
    ((s.source.bytes s.pos.toNat 7)[i]).toNat = s.hdrByte i := by
  rw [Source.bytes_getElem, State.hdrByte]

theorem State.headerAtPos_syncword (s : State) :
    s.headerAtPos.syncword.toNat = s.hdrByte 0 * 16 + s.hdrByte 1 / 16 := by
  simpa only [headerAtPos, bytesAtPos_toNat] using extract_syncword (s.source.bytes s.pos.toNat 7)

theorem State.headerAtPos_mpegVersion (s : State) : s.headerAtPos.mpegVersion.toNat = s.hdrByte 1 / 8 % 2 := by
  simpa only [headerAtPos, bytesAtPos_toNat] using extract_mpegVersion (s.source.bytes s.pos.toNat 7)

theorem State.headerAtPos_protAbsent (s : State) : s.headerAtPos.protAbsent.toNat = s.hdrByte 1 % 2 := by
  simpa only [headerAtPos, bytesAtPos_toNat] using extract_protAbsent (s.source.bytes s.pos.toNat 7)

theorem State.headerAtPos_aotCode (s : State) : s.headerAtPos.aotCode.toNat = s.hdrByte 2 / 64 := by
  simpa only [headerAtPos, bytesAtPos_toNat] using extract_aotCode (s.source.bytes s.pos.toNat 7)

theorem State.headerAtPos_sfi (s : State) : s.headerAtPos.sfi.toNat = s.hdrByte 2 / 4 % 16 := by
  simpa only [headerAtPos, bytesAtPos_toNat] using extract_sfi (s.source.bytes s.pos.toNat 7)

theorem State.headerAtPos_chcfg (s : State) :
    s.headerAtPos.chcfg.toNat = s.hdrByte 2 % 2 * 4 + s.hdrByte 3 / 64 := by
  simpa only [headerAtPos, bytesAtPos_toNat] using extract_chcfg (s.source.bytes s.pos.toNat 7)

theorem State.headerAtPos_frameLength (s : State) :
    s.headerAtPos.frameLength.toNat = s.hdrByte 3 % 4 * 2048 + s.hdrByte 4 * 8 + s.hdrByte 5 / 32 := by
  simpa only [headerAtPos, bytesAtPos_toNat] using extract_frameLength (s.source.bytes s.pos.toNat 7)

theorem State.headerAtPos_syncword_iff (s : State) :
    s.headerAtPos.syncword = 0xFFF#12 ↔ s.hdrByte 0 * 16 + s.hdrByte 1 / 16 = 0xFFF := by
  rw [← BitVec.toNat_inj, headerAtPos_syncword]
  rfl

theorem State.headerAtPos_minFrameLength (s : State) :
    minFrameLength s.headerAtPos.protAbsent = if s.hdrByte 1 % 2 = 1 then 7 else 9 := by
  have hbit : s.headerAtPos.protAbsent = 1#1 ↔ s.hdrByte 1 % 2 = 1 := by
    rw [← BitVec.toNat_inj, headerAtPos_protAbsent]
    rfl
  simp only [minFrameLength, hbit]

/-- The scan predicate at POS is the syncword check there (30_encoding.md R109). -/
theorem State.syncword_of_syncAt {s : State} (h : s.source.syncAt s.pos.toNat = true) :
    s.headerAtPos.syncword = 0xFFF#12 :=
  (syncPredicateIsTheSyncword s.source s.pos.toNat).1 h

/-- Where the 7 bytes at POS are those of a header's layout, that header stands there (20_memory.md R64, 30_encoding.md R97). -/
theorem State.headerAtPos_of_layout {s : State} {r : RawHeader}
    (h : ∀ i : Fin 7, s.source.byteAt (s.pos.toNat + i.val) = headerByte (layoutFields r) i) : s.headerAtPos = r := by
  have hword : headerWord (s.source.bytes s.pos.toNat 7) = layoutFields r :=
    headerWord_headerByte _ _ fun i => (Source.bytes_getElem _ _ _ _ i.isLt).trans (h i)
  rw [State.headerAtPos, hword]
  exact headerLayoutRoundTrips.1 r

/-! ### The checks (41_peek.md R163 to R166) -/

/-- The fields that PEEK keeps of a header, AOT being the code (41_peek.md R167, 30_encoding.md R103). -/
def RawHeader.kept (r : RawHeader) : Header :=
  { syncword := r.syncword, mpegVersion := r.mpegVersion, protAbsent := r.protAbsent, aot := r.aotCode.setWidth 6,
    sfi := r.sfi, chcfg := r.chcfg, frameLength := r.frameLength }

theorem checkHeader_of_other_syncword {r : RawHeader} (hs : r.syncword ≠ 0xFFF#12) :
    checkHeader r = .error .invalidSyncword :=
  if_neg hs

theorem checkHeader_of_short_frameLength {r : RawHeader} (hs : r.syncword = 0xFFF#12)
    (hf : r.frameLength.toNat < minFrameLength r.protAbsent) : checkHeader r = .error .invalidFrameLength := by
  obtain ⟨hs', -⟩ | ⟨-, -, hc⟩ | ⟨h, -, hf', -⟩ := checkHeader_cases r
  · exact absurd hs hs'
  · exact hc
  · exact absurd hf hf'.not_gt

theorem checkHeader_of_acceptable {r : RawHeader} (hs : r.syncword = 0xFFF#12)
    (hf : minFrameLength r.protAbsent ≤ r.frameLength.toNat) : checkHeader r = .ok r.kept := by
  obtain ⟨hs', -⟩ | ⟨-, hf', -⟩ | ⟨h, -, -, hc, rfl⟩ := checkHeader_cases r
  · exact absurd hs hs'
  · exact absurd hf hf'.not_ge
  · exact hc

/-- With the syncword at POS, a PEEK fails only for its read or for the frame length. -/
theorem State.peekVerdict_of_syncword {s : State} (hs : s.headerAtPos.syncword = 0xFFF#12) :
    s.peekVerdict = .error .ioFailure ∨ s.peekVerdict = .error .invalidFrameLength ∨
      s.peekVerdict = .ok s.headerAtPos.kept := by
  rw [State.peekVerdict]
  split
  · exact .inl rfl
  · obtain hf | hf := Nat.lt_or_ge s.headerAtPos.frameLength.toNat (minFrameLength s.headerAtPos.protAbsent)
    · exact .inr (.inl (checkHeader_of_short_frameLength hs hf))
    · exact .inr (.inr (checkHeader_of_acceptable hs hf))

/-! ### The cleared results (41_peek.md R170) -/

theorem Header.zero_f0 : Header.zero.f0 = 0#32 := by decide

theorem Header.zero_f1 : Header.zero.f1 = 0#32 := by decide

/-! ### The statements -/

/-- Settles O23: the header at POS is the one laid out there, and it passes the checks. -/
theorem peekRoundTrip : Obligations.PeekRoundTrip := by
  intro s r hgood hin hs hf hbytes
  have hhdr : s.headerAtPos = r := State.headerAtPos_of_layout hbytes
  have hcheck : checkHeader s.headerAtPos = .ok r.kept := by
    rw [hhdr]
    exact checkHeader_of_acceptable hs hf
  exact ⟨peekAccepted s r.kept, execPeek_of_read hgood hin hcheck, rfl, rfl, rfl, rfl, rfl, rfl⟩

/-- Settles O18: the header at POS passes the checks, and each field kept of it is the arithmetic of its bytes. -/
theorem peekAcceptsTheHeader : Obligations.PeekAcceptsTheHeader := by
  intro s hgood hin hsync hlen
  have hs := s.headerAtPos_syncword_iff.2 hsync
  have hcheck : checkHeader s.headerAtPos = .ok s.headerAtPos.kept := by
    refine checkHeader_of_acceptable hs ?_
    rwa [s.headerAtPos_minFrameLength, s.headerAtPos_frameLength]
  have hsNat : s.headerAtPos.kept.syncword.toNat = 0xFFF := congrArg BitVec.toNat hs
  have haot : s.headerAtPos.kept.aot.toNat = s.hdrByte 2 / 64 :=
    (BitVec.toNat_setWidth_of_le (by decide)).trans s.headerAtPos_aotCode
  obtain ⟨hf0, hf1⟩ := resultWordsHoldTheFields s.headerAtPos.kept
  rw [hsNat] at hf0
  exact ⟨peekAccepted s s.headerAtPos.kept, execPeek_of_read hgood hin hcheck, hsNat, s.headerAtPos_mpegVersion,
    s.headerAtPos_protAbsent, haot, s.headerAtPos_sfi, s.headerAtPos_chcfg, s.headerAtPos_frameLength, hf0, hf1, rfl⟩

/-- Settles O19: the first check fails. -/
theorem peekRejectsAnotherSyncword : Obligations.PeekRejectsAnotherSyncword := by
  intro s hgood hin hsync
  have hcheck := checkHeader_of_other_syncword (mt s.headerAtPos_syncword_iff.1 hsync)
  exact ⟨peekCleared s .invalidSyncword, execPeek_of_read hgood hin hcheck, rfl⟩

/-- Settles O20: the syncword passes and the last check fails. -/
theorem peekRejectsAShortFrameLength : Obligations.PeekRejectsAShortFrameLength := by
  intro s hgood hin hsync hlen
  rw [← s.headerAtPos_minFrameLength, ← s.headerAtPos_frameLength] at hlen
  have hcheck := checkHeader_of_short_frameLength (s.headerAtPos_syncword_iff.2 hsync) hlen
  exact ⟨peekCleared s .invalidFrameLength, execPeek_of_read hgood hin hcheck, rfl⟩

/-- Settles O21: no header is decoded where the read fails. -/
theorem peekFailsOnAFailedRead : Obligations.PeekFailsOnAFailedRead :=
  fun s hans hfail =>
    ⟨peekCleared s .ioFailure, execPeek_of_answered hans (State.peekVerdict_of_failed_read hfail), rfl⟩

/-- Settles O22, by how PEEK can end; a PEEK whose read is never answered does not complete, and one that accepts does not
fail. -/
theorem peekFrame : Obligations.PeekFrame := by
  intro s t hexec
  obtain rfl | rfl := peek_end_of_exec hexec
  · exact ⟨rfl, fun hbusy hidle => by cases ((busy_false_iff s).2 hidle).symm.trans hbusy⟩
  · cases s.peekVerdict with
    | error c => exact ⟨rfl, fun _ _ _ => ⟨rfl, rfl, Header.zero_f0, Header.zero_f1⟩⟩
    | ok h => exact ⟨rfl, fun _ _ herr => absurd rfl herr⟩

/-- Settles O25: the two verdicts are the same. -/
theorem peekDependsOnItsSevenBytesOnly : Obligations.PeekDependsOnItsSevenBytesOnly := by
  intro s s' hpos hlen hbytes hans hans' herr
  have hverdict := State.peekVerdict_congr hpos hlen hbytes herr
  obtain ⟨hcode, hvalid, hhdrPos, hhdr⟩ := State.endPeek_congr hpos s'.peekVerdict
  exact ⟨_, _, execPeek_of_answered hans hverdict, execPeek_of_answered hans' rfl, hcode, hvalid, hhdrPos, hhdr,
    by simpa only [State.endPeek_pos] using hpos⟩

/-- Settles O24: the second PEEK finds POS and the source as the first one did, so it gives the same verdict. -/
theorem peekIsIdempotent : Obligations.PeekIsIdempotent := by
  intro s c hans hans' hok hok'
  let t := s.endPeek s.peekVerdict
  have hpos : (t.accept c).pos = s.pos := s.endPeek_pos s.peekVerdict
  have hsource : (t.accept c).source = s.source := s.endPeek_source s.peekVerdict
  have hreads : (t.accept c).reads = s.reads + 1 := s.endPeek_reads s.peekVerdict
  have hverdict : (t.accept c).peekVerdict = s.peekVerdict :=
    State.peekVerdict_congr hpos (congrArg Source.len hsource) (fun _ _ => by rw [hsource])
      (by rw [hsource, hreads]; exact iff_of_false hok' hok)
  have hagain : ¬ (t.accept c).source.silentRead (t.accept c).reads := by rwa [hsource, hreads]
  obtain ⟨hcode, hvalid, hhdrPos, hhdr⟩ := State.endPeek_congr hpos s.peekVerdict
  exact ⟨t, _, execPeek_of_answered hans rfl, execPeek_of_answered hagain hverdict, State.endPeek_done _ _,
    State.endPeek_done _ _, hcode, hhdrPos, hhdr, hvalid, hpos, (State.endPeek_pos _ _).trans hpos⟩

/-- Settles O26: LOCATE leaves POS at a match of the scan predicate, which is the syncword check of PEEK. -/
theorem peekAfterLocateNeverMissesTheSyncword : Obligations.PeekAfterLocateNeverMissesTheSyncword := by
  intro s t u hbusy hlocate hidle herr hpeek hdone
  obtain ⟨-, -, hsync, -⟩ := locateReturnsTheFirstMatch s t hbusy hlocate hidle herr
  have hsource : t.source = s.source := by rw [(locateFrame s t hlocate).1]
  rw [← hsource] at hsync
  obtain rfl | rfl := peek_end_of_exec hpeek
  · cases hdone
  · have hs : (t.accept (encode .peek)).headerAtPos.syncword = 0xFFF#12 := State.syncword_of_syncAt hsync
    obtain hv | hv | hv := State.peekVerdict_of_syncword hs <;> rw [hv]
    · exact .inr (.inl rfl)
    · exact .inr (.inr rfl)
    · exact .inl rfl

end Sys2Proof.Machine

/-! SUPPORT. Proofs of the statements about the position and control commands (42_position_and_control.md): the move to a target
over the integers, which SEEK_REL and ADVANCE share; what each command is by it; the commands on another byte source. -/

namespace Sys2Proof.Machine

/-! ### The move to a target (00_scope.md R9) -/

/-- The state of a command that goes to the target `k` over the integers: POS moved with OK, or IOFailure out of range. -/
def State.moveTo (s : State) (k : Int) : State :=
  if posInRange k then (s.setPos (posOfInt k)).complete .ok else s.complete .ioFailure

theorem State.moveTo_of_inRange {s : State} {k : Int} (h : posInRange k) :
    s.moveTo k = (s.setPos (posOfInt k)).complete .ok :=
  if_pos h

theorem State.moveTo_of_outside {s : State} {k : Int} (h : ¬ posInRange k) : s.moveTo k = s.complete .ioFailure :=
  if_neg h

/-- A move writes POS and the bookkeeping only, so it keeps what ADVANCE reads. -/
@[simp] theorem State.moveTo_resValid (s : State) (k : Int) : (s.moveTo k).resValid = s.resValid := by
  rw [State.moveTo]
  split <;> rfl

@[simp] theorem State.moveTo_hdrPos (s : State) (k : Int) : (s.moveTo k).hdrPos = s.hdrPos := by
  rw [State.moveTo]
  split <;> rfl

@[simp] theorem State.moveTo_hdr (s : State) (k : Int) : (s.moveTo k).hdr = s.hdr := by
  rw [State.moveTo]
  split <;> rfl

@[simp] theorem State.moveTo_reads (s : State) (k : Int) : (s.moveTo k).reads = s.reads := by
  rw [State.moveTo]
  split <;> rfl

/-- Completion overwrites all that the acceptance of a word that reads no source has written (10_state.md R41). -/
theorem State.complete_accept (s : State) {c : Word} (hc : wordReadsSource c = false) (code : StatusCode) :
    (s.accept c).complete code = s.complete code := by
  simp [State.complete, State.accept, hc]

/-- A second move to the same target, by another accepted word, finds POS there already. -/
theorem State.moveTo_accept_moveTo (s : State) {c : Word} (hc : wordReadsSource c = false) (k : Int) :
    ((s.moveTo k).accept c).moveTo k = s.moveTo k := by
  by_cases h : posInRange k
  · simp only [State.moveTo_of_inRange h]
    exact State.complete_accept ((s.setPos (posOfInt k)).complete .ok) hc .ok
  · simp only [State.moveTo_of_outside h]
    exact State.complete_accept _ hc .ioFailure

/-! ### The commands by their move -/

/-- The argument of a running command is the copy made at acceptance (10_state.md R41). -/
theorem State.cmdArg_of_run {s : State} {c : Word} {a : BitVec 64} (h : s.engine = .run c a) : s.cmdArg = a := by
  rw [State.cmdArg, h]

/-- The target of SEEK_REL (42_position_and_control.md R206). -/
def State.seekRelTarget (s : State) : Int :=
  (s.pos.toNat : Int) + s.cmdArg.toInt

/-- The target of ADVANCE (42_position_and_control.md R210). -/
def State.advanceTarget (s : State) : Int :=
  (s.hdrPos.toNat : Int) + (s.hdr.frameLength.toNat : Int)

@[simp] theorem State.accept_advanceTarget (s : State) (c : Word) : (s.accept c).advanceTarget = s.advanceTarget := rfl

@[simp] theorem State.moveTo_advanceTarget (s : State) (k : Int) : (s.moveTo k).advanceTarget = s.advanceTarget := by
  rw [State.advanceTarget, State.moveTo_hdrPos, State.moveTo_hdr, State.advanceTarget]

theorem execSeekRel_eq_moveTo (s : State) : exec .seekRel s = .next (s.moveTo s.seekRelTarget) := by
  rw [State.seekRelTarget, ← sint64_eq_toInt]
  exact (apply_ite Host.Outcome.next _ _ _).symm

theorem execAdvance_of_result {s : State} (h : s.resValid = true) :
    exec .advance s = .next (s.moveTo s.advanceTarget) :=
  (if_pos h).trans (apply_ite Host.Outcome.next _ _ _).symm

theorem execAdvance_of_no_result {s : State} (h : s.resValid = false) :
    exec .advance s = .next (s.complete .noHeader) :=
  if_neg (ne_true_of_eq_false h)

/-- ADVANCE looks at RES_VALID alone to choose what it does (42_position_and_control.md R210, R211). Each equation has `t` on its
right, where substitution does not evaluate the range check of `moveTo`. -/
theorem execAdvance_cases {s t : State} (h : exec .advance s = .next t) :
    (s.resValid = true ∧ s.moveTo s.advanceTarget = t) ∨ (s.resValid = false ∧ s.complete .noHeader = t) := by
  cases hvalid : s.resValid with
  | true => exact .inl ⟨rfl, Host.Outcome.next.inj ((execAdvance_of_result hvalid).symm.trans h)⟩
  | false => exact .inr ⟨rfl, Host.Outcome.next.inj ((execAdvance_of_no_result hvalid).symm.trans h)⟩

/-! ### The statements about the position commands -/

/-- Settles O14: SEEK_REL is the move to its target, in range or not. -/
theorem seekRelMovesOrFails : Obligations.SeekRelMovesOrFails := by
  intro s c arg hrun
  have htarget : s.seekRelTarget = (s.pos.toNat : Int) + arg.toInt := by rw [State.seekRelTarget, State.cmdArg_of_run hrun]
  rw [← htarget, execSeekRel_eq_moveTo]
  refine ⟨fun hin => ?_, fun hout => ?_⟩
  · have hrange : posInRange s.seekRelTarget := by omega
    exact ⟨posOfInt s.seekRelTarget, posOfInt_toNat hrange, by rw [State.moveTo_of_inRange hrange]; rfl⟩
  · have hrange : ¬ posInRange s.seekRelTarget := by omega
    rw [State.moveTo_of_outside hrange]
    rfl

/-- Settles O15: with a result ADVANCE is the move to its target, in range or not. -/
theorem advanceMovesOrFails : Obligations.AdvanceMovesOrFails := by
  intro s
  have htarget : s.advanceTarget = ((s.hdrPos.toNat + s.hdr.frameLength.toNat : Nat) : Int) := rfl
  refine ⟨fun hvalid hin => ?_, fun hvalid hout => ?_, execAdvance_of_no_result⟩
  · have hrange : posInRange s.advanceTarget := by omega
    refine ⟨posOfInt s.advanceTarget, Int.ofNat_inj.1 (posOfInt_toNat hrange), ?_⟩
    rw [execAdvance_of_result hvalid, State.moveTo_of_inRange hrange]
    rfl
  · have hrange : ¬ posInRange s.advanceTarget := by omega
    rw [execAdvance_of_result hvalid, State.moveTo_of_outside hrange]
    rfl

/-- Settles O16: the first ADVANCE keeps RES_VALID and the target, so the second one does the same again. -/
theorem advanceIsIdempotent : Obligations.AdvanceIsIdempotent := by
  intro s t hexec
  have hword : wordReadsSource (encode .advance) = false := by decide
  obtain ⟨hvalid, rfl⟩ | ⟨hvalid, rfl⟩ := execAdvance_cases hexec
  · have hagain : ((s.moveTo s.advanceTarget).accept (encode .advance)).resValid = true := by
      rwa [State.accept_resValid, State.moveTo_resValid]
    have htarget : ((s.moveTo s.advanceTarget).accept (encode .advance)).advanceTarget = s.advanceTarget := by
      rw [State.accept_advanceTarget, State.moveTo_advanceTarget]
    rw [execAdvance_of_result hagain, htarget, State.moveTo_accept_moveTo s hword]
  · have hagain : ((s.complete .noHeader).accept (encode .advance)).resValid = false := hvalid
    rw [execAdvance_of_no_result hagain, State.complete_accept _ hword]
    rfl

/-- A PEEK that is answered and completes with OK has accepted a header that is all in the source (41_peek.md R167). -/
theorem peekAccepted_of_ok {s t : State} (hans : ¬ s.source.silentRead s.reads) (h : exec .peek s = .next t)
    (herr : t.err = 0#4) :
    ∃ hdr : Header, hdr.accepted ∧ s.pos.toNat + 7 ≤ s.source.len.val ∧ t = peekAccepted s hdr := by
  obtain ⟨hsilent, -⟩ | ⟨-, -, he⟩ | ⟨-, hin, -, ⟨c, hc, -, he⟩ | ⟨hdr, hh, he⟩⟩ := execPeek_cases s
  · exact absurd hsilent hans
  · cases he.symm.trans h
    exact absurd herr (by decide : StatusCode.ioFailure.bits ≠ 0#4)
  · cases he.symm.trans h
    obtain rfl | rfl := hc
    · exact absurd herr (by decide : StatusCode.invalidSyncword.bits ≠ 0#4)
    · exact absurd herr (by decide : StatusCode.invalidFrameLength.bits ≠ 0#4)
  · cases he.symm.trans h
    exact ⟨hdr, checkHeader_accepted hh, hin, rfl⟩

/-- The frame length of an accepted header is at least 7 (42_position_and_control.md R218). -/
theorem Header.accepted.frameLength_ge {h : Header} (ha : h.accepted) : 7 ≤ h.frameLength.toNat := by
  obtain ⟨-, -, hnoCrc, hcrc⟩ := ha
  obtain hp | hp := bit_cases h.protAbsent
  · exact Nat.le_trans (by decide) (hcrc hp)
  · exact hnoCrc hp

/-- Settles O17: the target is POS and the frame length of the accepted header. Out of range POS stays; with the header inside a
source of at most `2^64 - 8185` bytes the target is in range, a frame length having 13 bits. -/
theorem advanceAfterPeekMovesForward : Obligations.AdvanceAfterPeekMovesForward := by
  intro s t c hans hpeek herr
  obtain ⟨hdr, hacc, hin, rfl⟩ := peekAccepted_of_ok hans hpeek herr
  have hmin := hacc.frameLength_ge
  have hmax := hdr.frameLength.isLt
  obtain ⟨-, -, -, hcrc⟩ := hacc
  let t := (peekAccepted s hdr).accept c
  have htarget : t.advanceTarget = ((s.pos.toNat + hdr.frameLength.toNat : Nat) : Int) := rfl
  refine ⟨t.moveTo t.advanceTarget, execAdvance_of_result rfl, ?_⟩
  by_cases hrange : posInRange t.advanceTarget
  · have hpos : (posOfInt t.advanceTarget).toNat = s.pos.toNat + hdr.frameLength.toNat :=
      Int.ofNat_inj.1 (posOfInt_toNat hrange)
    rw [State.moveTo_of_inRange hrange, State.complete_pos, State.setPos_pos, hpos]
    exact ⟨by omega, fun _ => ⟨by omega, fun hp => Nat.add_le_add_left (hcrc hp) _⟩, fun _ => rfl⟩
  · rw [State.moveTo_of_outside hrange]
    have hfail : (t.complete .ioFailure).err ≠ 0#4 := by rw [State.complete_err]; decide
    exact ⟨le_refl _, fun hok => absurd hok hfail, fun hlen => absurd ⟨by omega, by omega⟩ hrange⟩

/-! ### The commands on another byte source (42_position_and_control.md R216) -/

/-- The state over another byte source, with another number of reads made. -/
def State.withSource (src : Source) (k : Nat) (s : State) : State :=
  { s with source := src, reads := k }

theorem State.moveTo_withSource (src : Source) (n : Nat) (s : State) (k : Int) :
    (s.withSource src n).moveTo k = (s.moveTo k).withSource src n := by
  by_cases h : posInRange k
  · simp only [State.moveTo_of_inRange h]
    rfl
  · simp only [State.moveTo_of_outside h]
    rfl

/-- ADVANCE reads RES_VALID, HDR_POS and FRAME_LENGTH only (42_position_and_control.md R209), and counts no read. -/
theorem execAdvance_withSource (src : Source) (k : Nat) {s t : State} (h : exec .advance s = .next t) :
    t.reads = s.reads ∧ exec .advance (s.withSource src k) = .next (t.withSource src k) := by
  obtain ⟨hvalid, rfl⟩ | ⟨hvalid, rfl⟩ := execAdvance_cases h
  · refine ⟨s.moveTo_reads _, ?_⟩
    rw [← State.moveTo_withSource]
    exact execAdvance_of_result hvalid
  · exact ⟨rfl, execAdvance_of_no_result hvalid⟩

/-- SEEK_REL reads POS and the argument only, and counts no read. -/
theorem execSeekRel_withSource (src : Source) (k : Nat) {s t : State} (h : exec .seekRel s = .next t) :
    t.reads = s.reads ∧ exec .seekRel (s.withSource src k) = .next (t.withSource src k) := by
  cases (execSeekRel_eq_moveTo s).symm.trans h
  refine ⟨s.moveTo_reads _, ?_⟩
  rw [← State.moveTo_withSource]
  exact execSeekRel_eq_moveTo _

/-- Settles O41, command by command: each commutes with changing the source. -/
theorem positionCommandsReadNoSource : Obligations.PositionCommandsReadNoSource := by
  intro i s t src k hinstr hexec
  obtain rfl | rfl | rfl | rfl := hinstr
  · cases hexec
    exact ⟨rfl, rfl⟩
  · cases hexec
    exact ⟨rfl, rfl⟩
  · exact execSeekRel_withSource src k hexec
  · exact execAdvance_withSource src k hexec

/-! ### What changes POS (42_position_and_control.md R219) -/

/-- A changed POS means that the word was one of the four commands that move it. -/
theorem WordEffect.word_of_pos_changed {c : Word} {s t : State} (h : WordEffect c s t) (hne : t.pos ≠ s.pos) :
    c = encode .seekAbs ∨ c = encode .seekRel ∨ c = encode .locate ∨ c = encode .advance := by
  cases h with
  | moved p hword =>
    obtain hword | hword | hword := hword
    · exact .inl hword
    · exact .inr (.inl hword)
    · exact .inr (.inr (.inr hword))
  | located p n code hword _ => exact .inr (.inr (.inl hword))
  | completed => exact absurd rfl hne
  | peekCleared => exact absurd rfl hne
  | peekAccepted => exact absurd rfl hne
  | hung => exact absurd rfl hne

/-- Settles O45: besides a reset, only the engine's turn writes POS, and there only one of the four words as it completes. -/
theorem positionChangesOnlyByFourCommands : Obligations.PositionChangesOnlyByFourCommands := by
  intro s t hstep hne
  obtain ⟨ts, hkind⟩ := step_kind hstep
  cases hkind with
  | engine _ hturn ht =>
    obtain rfl | ⟨c, a, hrun, hs, heff⟩ := engineTurn_effect ht
    · exact absurd rfl hne
    · obtain hsame | ⟨hidle, hdone⟩ := heff.samePosResults_or_completed
      · exact absurd hsame.pos hne
      · exact .inr ⟨hturn, hs, hidle, hdone, c, a, hrun, heff.word_of_pos_changed hne⟩
  | host _ hh => exact absurd hh.samePosResults.pos hne
  | rst hrst => exact .inl hrst
  | attach => exact absurd rfl hne

/-! ### The commands that cannot fail -/

/-- Settles O12: NOP is completion with OK, whose writes are the bookkeeping (60_exceptions.md R240). -/
theorem nopCompletesAndChangesNothingElse : Obligations.NopCompletesAndChangesNothingElse :=
  fun _ => rfl

/-- Settles O13: the argument that SEEK_ABS writes is the copy made at acceptance. -/
theorem seekAbsSetsPosition : Obligations.SeekAbsSetsPosition := by
  intro s c arg hrun
  have hexec : exec .seekAbs s = .next ((s.setPos s.cmdArg).complete .ok) := rfl
  rw [hexec, State.cmdArg_of_run hrun]
  rfl

end Sys2Proof.Machine

/-! SUPPORT. Proofs of the statements about completion (60_exceptions.md): the command that is answered ends in a completion, the
illegal word in one with IllegalCommand; completion against the clear of DONE_PEND; the idle block. -/

namespace Sys2Proof.Machine

/-! ### Every answered command completes (60_exceptions.md R240) -/

/-- The answer is a completion, with a code that a command gives (60_exceptions.md R238); IllegalCommand is none. -/
def CompletesCommand (r : Result) : Prop :=
  ∃ (u : State) (code : StatusCode), r = .next (u.complete code) ∧ code.bits ∈ [0#4, 1#4, 3#4, 5#4, 6#4]

theorem State.moveTo_completes (s : State) (k : Int) : CompletesCommand (.next (s.moveTo k)) := by
  by_cases h : posInRange k
  · rw [State.moveTo_of_inRange h]
    exact ⟨_, .ok, rfl, by decide⟩
  · rw [State.moveTo_of_outside h]
    exact ⟨_, .ioFailure, rfl, by decide⟩

theorem execAdvance_completes (s : State) : CompletesCommand (exec .advance s) := by
  cases hvalid : s.resValid with
  | true =>
    rw [execAdvance_of_result hvalid]
    exact s.moveTo_completes s.advanceTarget
  | false => exact ⟨s, .noHeader, execAdvance_of_no_result hvalid, by decide⟩

/-- LOCATE hangs only at a read that is never answered (70_reset_and_hazards.md R282). -/
theorem execLocate_completes {s : State} (hans : s.allAnswered) : CompletesCommand (exec .locate s) := by
  obtain ⟨j, t, -, hend, he⟩ := execLocate_end s
  cases hend with
  | found => exact ⟨located s _ _ .ok, .ok, he, by decide⟩
  | failed => exact ⟨located s _ _ .ioFailure, .ioFailure, he, by decide⟩
  | hung w p hsilent => exact absurd hsilent (hans _ (Nat.le_add_right _ _))

/-- PEEK hangs only at a read that is never answered (70_reset_and_hazards.md R282). -/
theorem execPeek_completes {s : State} (hans : s.allAnswered) : CompletesCommand (exec .peek s) := by
  obtain ⟨hsilent, -⟩ | ⟨-, -, he⟩ | ⟨-, -, -, ⟨c, hc, -, he⟩ | ⟨h, -, he⟩⟩ := execPeek_cases s
  · exact absurd hsilent (hans _ (Nat.le_refl _))
  · exact ⟨peekCleared s .ioFailure, .ioFailure, he, by decide⟩
  · refine ⟨peekCleared s c, c, he, ?_⟩
    obtain rfl | rfl := hc <;> decide
  · exact ⟨peekAccepted s h, .ok, he, by decide⟩

theorem exec_completes (i : Instr) {s : State} (hans : s.allAnswered) : CompletesCommand (exec i s) := by
  cases i with
  | nop => exact ⟨s, .ok, rfl, by decide⟩
  | seekAbs => exact ⟨s.setPos s.cmdArg, .ok, rfl, by decide⟩
  | seekRel =>
    rw [execSeekRel_eq_moveTo]
    exact s.moveTo_completes s.seekRelTarget
  | locate => exact execLocate_completes hans
  | peek => exact execPeek_completes hans
  | advance => exact execAdvance_completes s

/-- Settles O34: every command ends in a completion, and completion writes the bookkeeping. -/
theorem everyCommandCompletes : Obligations.EveryCommandCompletes := by
  intro i s hans
  obtain ⟨u, code, he, hcode⟩ := exec_completes i hans
  exact ⟨u.complete code, he, rfl, rfl, rfl, hcode⟩

/-! ### Illegal words (60_exceptions.md R237) -/

/-- A word with OP in 0x6 to 0xF or RSV not 0 does not decode (30_encoding.md R94). -/
theorem decode_error_of_illegal {c : Word} (h : 6 ≤ c.toNat % 16 ∨ c.toNat / 16 ≠ 0) : ∃ e, decode c = .error e := by
  obtain ⟨-, hd⟩ | ⟨-, -, hd⟩ | ⟨hlt, -⟩ := decode_cases c
  · exact ⟨_, hd⟩
  · exact ⟨_, hd⟩
  · omega

/-- The engine that waits for no read runs the word it took (10_state.md R42). -/
theorem engineTurn_of_run {s : State} {c : Word} {a : BitVec 64} (hrun : s.engine = .run c a) (hs : s.stalled = false) :
    engineTurn s = runWord c s := by
  simp [engineTurn, hrun, hs]

/-- The engine's turn on a word that does not decode (42_position_and_control.md R215). -/
theorem engineTurn_of_decode_error {s : State} {c : Word} {a : BitVec 64} {e : IllegalWord} (hrun : s.engine = .run c a)
    (hs : s.stalled = false) (hd : decode c = .error e) : engineTurn s = .next (s.complete .illegalCommand) := by
  rw [engineTurn_of_run hrun hs, runWord, hd]
  rfl

/-- Settles O9: the word does not decode, and either way the engine has the turn. -/
theorem illegalWordCompletesWithIllegalCommand : Obligations.IllegalWordCompletesWithIllegalCommand := by
  intro s c a hrun hs hillegal
  obtain ⟨e, hd⟩ := decode_error_of_illegal hillegal
  refine ⟨fun hturns => ?_, fun rest hturns => ?_⟩
  · rw [step_of_no_turns hturns, if_pos ((busy_iff s).2 ⟨c, a, hrun⟩)]
    exact engineTurn_of_decode_error hrun hs hd
  · rw [step_of_turn hturns]
    exact engineTurn_of_decode_error hrun hs hd

/-! ### Completion after the clear of DONE_PEND (60_exceptions.md R246) -/

/-- A word, legal or not, completes when every read is answered. -/
theorem runWord_completes (c : Word) {s : State} (hans : s.allAnswered) :
    ∃ (u : State) (code : StatusCode), runWord c s = .next (u.complete code) := by
  obtain ⟨i, -, hr⟩ | ⟨e, -, hr⟩ := runWord_cases c s
  · obtain ⟨u, code, he, -⟩ := exec_completes i hans
    exact ⟨u, code, hr.trans he⟩
  · exact ⟨s, .illegalCommand, hr⟩

/-- Settles O54: the clear touches neither the engine nor its reads, and completion sets DONE_PEND whatever it was. -/
theorem completionWinsOverTheClear : Obligations.CompletionWinsOverTheClear := by
  intro s rest c a hturns hrun hs hans
  let t : State := { s with turns := .engine :: rest, donePend := false }
  have hclear : step s = .next t := (intIsWriteOneToClear s (.engine :: rest) 1#32 hturns).1 rfl
  have hengine : step t = runWord c { t with turns := rest } :=
    (step_of_turn (s := t) rfl).trans (engineTurn_of_run (s := { t with turns := rest }) hrun hs)
  obtain ⟨u, code, he⟩ := runWord_completes c (s := { t with turns := rest }) hans
  exact ⟨t, u.complete code, hclear, rfl, hengine.trans he, rfl, rfl⟩

/-! ### The idle block (60_exceptions.md R253) -/

/-- A host with no line left makes no access (log 11). -/
theorem hostTurn_of_no_line {s : State} (h : s.agent.prog[s.agent.line]? = none) : hostTurn s = .next s := by
  simp only [hostTurn, h]

/-- Settles O10: the turn is the host's, who has no line left or halts. -/
theorem idleBlockWaitsUnchanged : Obligations.IdleBlockWaitsUnchanged := by
  intro s hidle hturns hline
  obtain hend | hhalt := hline
  · rw [step_of_no_turns hturns, if_neg (ne_true_of_eq_false ((busy_false_iff s).2 hidle))]
    exact hostTurn_of_no_line hend
  · exact step_of_idle_line hidle hturns hhalt

end Sys2Proof.Machine

/-! SUPPORT. Proofs of the statements about reset and hazards (70_reset_and_hazards.md): the engine at a read that is never
answered, the byte source the platform attaches, and `rst`. -/

namespace Sys2Proof.Machine

/-! ### The read that is never answered (70_reset_and_hazards.md R282) -/

/-- An engine that waits for such a read, with nothing scheduled, makes no change. -/
theorem step_of_waiting {s : State} (hturns : s.turns = []) (hbusy : s.busy = true) (hwait : s.stalled = true) :
    step s = .next s := by
  rw [step_of_no_turns hturns, if_pos hbusy]
  obtain ⟨-, he⟩ | ⟨c, a, -, -, he⟩ | ⟨c, a, -, hnot, -⟩ := engineTurn_cases s
  · exact he
  · exact he
  · cases hwait.symm.trans hnot

/-- A command whose exec ends waiting for its `n`-th read hangs the engine: the register window shows nothing of it, and the
engine waits on. -/
theorem step_hangs_of_exec {s : State} {i : Instr} {a : BitVec 64} {w : Vector Byte 9} {p : Pos} {n : Nat}
    (hrun : s.engine = .run (encode i) a) (hs : s.stalled = false) (hturns : s.turns = [])
    (hdecode : decode (encode i) = .ok i) (hexec : exec i s = .next (scanning s w p n).stall) :
    ∃ t, step s = .next t ∧ t.busy = true ∧ t.visible = s.visible ∧ t.reads = s.reads + n ∧ step t = .next t := by
  have hstep := (stepRunsTheDecodedCommand s _ a i hrun hs hdecode).1 hturns
  have hbusy : (scanning s w p n).stall.busy = true := (busy_iff _).2 ⟨_, a, hrun⟩
  exact ⟨_, hstep.trans hexec, hbusy, rfl, rfl, step_of_waiting hturns hbusy rfl⟩

/-- PEEK whose read is never answered waits, its read counted. -/
theorem execPeek_of_silent {s : State} (hsilent : s.source.silentRead s.reads) :
    exec .peek s = .next (scanning s s.wbuf s.ws 1).stall := by
  have hread : s.memRead s.pos.toNat 7 = .silent := Source.answer_silent_iff.2 hsilent
  simp only [exec, execPeek, hread]
  rfl

/-- LOCATE whose read of window `j` is never answered waits, `j + 1` reads counted. -/
theorem execLocate_of_silent {s : State} {j : Nat} (hquiet : s.QuietTo j) (hsilent : s.source.silentRead (s.reads + j)) :
    ∃ w p, exec .locate s = .next (scanning s w p (j + 1)).stall := by
  obtain ⟨i, hquiet', hend⟩ := execLocate_cases s
  have hle : i ≤ j := Nat.le_of_not_lt fun h => (hquiet' j h).answered hsilent
  have before (hans : ¬ s.source.silentRead (s.reads + i)) : QuietWindow s.source s.reads s.pos.toNat i :=
    hquiet i (Nat.lt_of_le_of_ne hle fun h => hans (h ▸ hsilent))
  obtain ⟨q, hans, hin, hok, hsync, hfirst, -⟩ | ⟨hans, hfail, -⟩ | ⟨hwait, w, p, he⟩ := hend
  · exact absurd (before hans) (LocateEnd.found q hin hok hsync hfirst).not_quiet
  · exact absurd (before hans) (LocateEnd.failed hfail).not_quiet
  · obtain rfl : i = j := Nat.le_antisymm hle (Nat.le_of_not_lt fun h => (hquiet i h).answered hwait)
    exact ⟨w, p, he⟩

/-- Settles O35: PEEK waits in its one read, LOCATE in window `j`, the first that is not read without a match. -/
theorem unansweredReadHangsTheEngine : Obligations.UnansweredReadHangsTheEngine := by
  intro s a hs hturns
  refine ⟨fun hrun hsilent => ?peek, fun j hrun hread hsilent => ?locate⟩
  case peek => exact step_hangs_of_exec hrun hs hturns rfl (execPeek_of_silent hsilent)
  case locate =>
    have hquiet : s.QuietTo j := fun m hm => by
      obtain ⟨hin, hans, hok, hno⟩ := hread m hm
      exact ⟨hans, hin, hok, fun p => hno p p.isLt⟩
    obtain ⟨w, p, hexec⟩ := execLocate_of_silent hquiet hsilent
    exact step_hangs_of_exec hrun hs hturns rfl hexec

/-! ### The byte source that is attached (70_reset_and_hazards.md R273, R279) -/

/-- One more cell given last is written over the cells before it, where it lies below `L`. -/
theorem placeCells_concat (len : Nat) (cells : List Host.Cell) (c : Host.Cell) :
    placeCells len (cells ++ [c]) =
      if c.1 < len then cellWrite c.1 c.2 (placeCells len cells) else placeCells len cells := by
  simp only [placeCells, List.foldl_append, List.foldl_cons, List.foldl_nil]

/-- The last cell given for an address, where the cells end in `c`. -/
theorem findRev?_concat (cells : List Host.Cell) (c : Host.Cell) (a : Nat) :
    (cells ++ [c]).findRev? (fun d => d.1 = a) = if c.1 = a then some c else cells.findRev? (fun d => d.1 = a) := by
  simp only [List.findRev?_eq_find?_reverse, List.reverse_append, List.reverse_singleton, List.singleton_append]
  by_cases h : c.1 = a <;> simp [h]

/-- The byte of an attached source below `L` is that of the last cell given for its address, and beyond `L` there is none. -/
theorem cellRead_placeCells (len : Nat) (cells : List Host.Cell) (a : Nat) :
    cellRead a (placeCells len cells) =
      if a < len then ((cells.findRev? fun c => c.1 = a).map Prod.snd).getD cellDefault else cellDefault := by
  induction cells using List.reverseRecOn with
  | nil => simp [placeCells, cellRead]
  | append_singleton cells c ih =>
    rw [placeCells_concat, findRev?_concat]
    by_cases hc : c.1 < len
    · rw [if_pos hc]
      by_cases hca : c.1 = a
      · subst hca
        simp [cellRead_cellWrite_same (placeCells_wf len cells), hc]
      · rw [cellRead_cellWrite_other (Ne.symm hca), ih, if_neg hca]
    · rw [if_neg hc, ih]
      by_cases ha : a < len
      · rw [if_neg (show c.1 ≠ a by omega)]
      · simp only [if_neg ha]

theorem attachSource_of_unused {s : State} {len : Nat} (cells : List Host.Cell) (e q : Draws)
    (hlen : len < 18446744073709551617) (hu : s.sourceInUse = false) :
    attachSource s len cells e q = .next (s.setSource ⟨len, hlen⟩ cells e q) := by
  simp [attachSource, hlen, hu]

theorem attachSource_of_inUse {s : State} {len : Nat} (cells : List Host.Cell) (e q : Draws)
    (hlen : len < 18446744073709551617) (hu : s.sourceInUse = true) :
    attachSource s len cells e q = .refused .sourceChanged := by
  simp [attachSource, hlen, hu]

theorem attachSource_of_too_long (s : State) {len : Nat} (cells : List Host.Cell) (e q : Draws)
    (hlen : ¬ len < 18446744073709551617) : attachSource s len cells e q = .fault .sourceTooLong :=
  dif_neg hlen

/-- The source is in use once a read was made (log 13). -/
theorem State.Inv.inUse_of_reads {s : State} (h : s.Inv) (hreads : s.reads ≠ 0) : s.sourceInUse = true := by
  by_contra hu
  obtain ⟨-, hzero, -⟩ := h.unused (eq_false_of_ne_true hu)
  exact hreads hzero

/-- Settles O55: the record of use and the length decide, and the cells are placed in the order given. -/
theorem attachingTheSource : Obligations.AttachingTheSource := by
  intro s rest len cells e q hturns
  have hstep : step s = attachSource { s with turns := rest } len cells e q := step_of_turn hturns
  have hrefused (hlen : len ≤ 2 ^ 64) (hu : s.sourceInUse = true) : step s = .refused .sourceChanged :=
    hstep.trans (attachSource_of_inUse cells e q (Nat.lt_succ_of_le hlen) hu)
  refine ⟨fun hlen hu => ?attached, hrefused, fun hlen hinv hbound => ?refused, fun hlong => ?fault⟩
  case attached =>
    refine ⟨_, hstep.trans (attachSource_of_unused cells e q (Nat.lt_succ_of_le hlen) hu), rfl, rfl, rfl, rfl,
      placeCells_wf len cells, fun a b ha hlast => ?_, fun a hnone => ?_⟩
    · exact (cellRead_placeCells len cells a).trans (by rw [if_pos ha, hlast]; rfl)
    · exact (cellRead_placeCells len cells a).trans (by rw [hnone]; exact ite_self _)
  case refused =>
    refine hrefused hlen ?_
    obtain ⟨a, hrun | hrun⟩ | hreads := hbound
    · exact hinv.inUse hrun (.inl rfl)
    · exact hinv.inUse hrun (.inr rfl)
    · exact hinv.inUse_of_reads hreads
  case fault => exact hstep.trans (attachSource_of_too_long _ cells e q (Nat.not_lt.2 hlong))

/-! ### `rst` (70_reset_and_hazards.md R271) -/

/-- Settles O39: the registers after `rst` are those of reset, whatever ran, and the source and the schedule are kept. -/
theorem rstAbandonsTheCommand : Obligations.RstAbandonsTheCommand :=
  fun s rest hturns => ⟨({ s with turns := rest } : State).afterRst, step_of_turn hturns, rfl, rfl, rfl, rfl, rfl⟩

end Sys2Proof.Machine
